-- ==== Sys2Proof/Word.lean ====
section
/-! DEFINITION. The word types of the block: bytes and host addresses are 8 bits (rules R26, R28, R61),
a transaction header is 9 bits (rule R101). -/

namespace Sys2Proof

/-- A frame byte, a configuration byte or a command word (rules R26, R28, R97). -/
abbrev Byte := BitVec 8

/-- An address of the host register space (rule R61). -/
abbrev HostAddr := BitVec 8

/-- The header of a host transaction: bit 8 is W, bits 7:0 are ADDR (rule R101). -/
abbrev Header := BitVec 9

end Sys2Proof
end

