-- ==== Sys2Proof/Syntax.lean ====
section
/-! DEFINITION. The instructions (every row of the opcode table, spec file 30), the two formats a host access
is written in (rule R90), what can arrive at the block, the named registers (rule R62), the closed
enumerations (rule R10) and the pseudo-instructions of host programs (rule R106). -/

namespace Sys2Proof

/-- The four resolutions (rule R10). -/
inductive Resolution where
  | bits12 | bits14 | bits16 | bits18
  deriving DecidableEq, Repr

/-- The four gains (rule R10). -/
inductive Gain where
  | x1 | x2 | x4 | x8
  deriving DecidableEq, Repr

/-- The two conversion modes (rule R10). -/
inductive Mode where
  | oneShot | continuous
  deriving DecidableEq, Repr

/-- The registers of the host register space, in address order (rule R62). -/
inductive RegName where
  | cmd | status | flen
  | frame0 | frame1 | frame2 | frame3 | frame4
  | cfgbyte | locidx | conf | pconf | raw | signed | physDen | physF
  deriving DecidableEq, Repr

/-- The nine commands that a write to CMD can run (rule R98). -/
inductive Command where
  | nop | enc | dcfg | loc | dsmp | tophys | frame | merge | srst
  deriving DecidableEq, Repr

/-- The instructions: one constructor for each row of the opcode table. A command stands for the host's write
of its opcode to CMD (rule R105); `wr` and `rd` are the host accesses (rules R121, R123). The value of a
write is an unsigned integer of any size: one too wide for its register is a bad access, not a truncated
one (rules R107, R124). -/
inductive Instr where
  | nop | enc | dcfg | loc | dsmp | tophys | frame | merge | srst
  | wr (a : HostAddr) (v : Nat)
  | rd (a : HostAddr)
  deriving DecidableEq, Repr

/-- An encoded host access, in one of the two formats of the opcode table (rule R90): the 8-bit command word,
which stands for a write of that word to CMD, or a transaction: a 9-bit header, and one data value on a
write (rule R101). -/
inductive HostWord where
  | command (word : Byte)
  | transaction (header : Header) (data : Option Nat)
  deriving DecidableEq, Repr

/-- What can arrive at the block from outside: an access of the one host (rule R12), the RST input (rule
R250), or an access of a second host, which the model must refuse (rule R241). -/
inductive HostInput where
  | access (word : HostWord)
  | rst
  | secondHost (word : HostWord)
  deriving DecidableEq, Repr

/-- The pseudo-instructions of host programs (rule R106). -/
inductive PseudoInstr where
  | ldframe (bytes : List Byte)
  | setconf (ready : Bool) (channel : BitVec 3) (mode : Mode) (res : Resolution) (gain : Gain)
  | setpconf (gain : Option Gain) (res : Option Resolution) (mode : Option Mode)
      (channel : Option (BitVec 3)) (ready : Option Bool)
  | cmd (c : Command)
  deriving DecidableEq, Repr

end Sys2Proof
end

