-- ==== Sys2Proof/WellFormed.lean ====
section
/-! DEFINITION. What is a well-formed instruction, encoded access and pseudo-instruction. -/

namespace Sys2Proof

/-- Every instruction is well-formed. Its types leave nothing to check: an address has 8 bits (rule R101), and
a write value of any size has a meaning, since one too wide for its register raises BAD_ACCESS (rule R124). -/
def Instr.wellFormed : Instr → Bool
  | .nop => true
  | .enc => true
  | .dcfg => true
  | .loc => true
  | .dsmp => true
  | .tophys => true
  | .frame => true
  | .merge => true
  | .srst => true
  | .wr _ _ => true
  | .rd _ => true

/-- Is the command word one of rule R98? Bits 7:4 are zero (rule R97) and the opcode is 0 to 7 or 15. -/
def legalCommandWord (word : Byte) : Bool :=
  decide (word.toNat ≤ 0x07) || decide (word.toNat = 0x0F)

/-- A well-formed encoded access: a legal command word (rule R99), or a transaction that carries a data value
exactly when its W bit says that it is a write (rule R101; that the other two shapes are refused is DEDUCED, log
entry 5). -/
def HostWord.wellFormed : HostWord → Bool
  | .command word => legalCommandWord word
  | .transaction header data => header.getLsbD 8 == data.isSome

/-- LDFRAME presents at most five bytes (rules R78, R106); the types of the other pseudo-instructions leave
nothing to check. -/
def PseudoInstr.wellFormed : PseudoInstr → Bool
  | .ldframe bytes => decide (bytes.length ≤ 5)
  | .setconf _ _ _ _ _ => true
  | .setpconf _ _ _ _ _ => true
  | .cmd _ => true

end Sys2Proof
end

