-- ==== Sys2Proof/Decode.lean ====
section
/-! DEFINITION. The command decoder (rule R102), the decoder of host accesses (rules R101, R105), total and
rejecting by name, and the encoder, written from the same tables (rules R98, R101). -/

namespace Sys2Proof

/-- Why an encoded access is no instruction. -/
inductive DecodeError where
  /-- A reserved or illegal command word (rule R99): the block raises ILLEGAL_CMD. -/
  | illegalCommand (word : Byte)
  /-- A write transaction without a data value, which rule R101 has no room for (DEDUCED, log entry 5). -/
  | writeWithoutData
  /-- A read transaction with a data value, which rule R101 has no room for (DEDUCED, log entry 5). -/
  | readWithData
  deriving DecidableEq, Repr

/-- The command decoder (rule R102): bits 7:4 must be zero, and bits 3:0 name the command. It reads nothing but
the written byte. -/
def decodeCommand (word : Byte) : Option Command :=
  if word.extractLsb' 4 4 ≠ 0#4 then none
  else
    match (word.extractLsb' 0 4).toNat with
    | 0x0 => some .nop
    | 0x1 => some .enc
    | 0x2 => some .dcfg
    | 0x3 => some .loc
    | 0x4 => some .dsmp
    | 0x5 => some .tophys
    | 0x6 => some .frame
    | 0x7 => some .merge
    | 0xF => some .srst
    | _ => none

/-- The instruction that writes a command's opcode to CMD (rule R105). -/
def Command.instr : Command → Instr
  | .nop => .nop
  | .enc => .enc
  | .dcfg => .dcfg
  | .loc => .loc
  | .dsmp => .dsmp
  | .tophys => .tophys
  | .frame => .frame
  | .merge => .merge
  | .srst => .srst

/-- The W bit of a header (rule R101). -/
def headerIsWrite (header : Header) : Bool := header.getLsbD 8

/-- The ADDR field of a header (rule R101). -/
def headerAddr (header : Header) : HostAddr := header.extractLsb' 0 8

/-- The decoder of host accesses. A command word is the command's own instruction (rule R105); a transaction is
an RD or a WR (rule R101). -/
def decode : HostWord → Except DecodeError Instr
  | .command word =>
    match decodeCommand word with
    | some c => .ok c.instr
    | none => .error (.illegalCommand word)
  | .transaction header data =>
    if headerIsWrite header then
      match data with
      | some v => .ok (.wr (headerAddr header) v)
      | none => .error .writeWithoutData
    else
      match data with
      | none => .ok (.rd (headerAddr header))
      | some _ => .error .readWithData

/-- The opcode map (rule R98). -/
def Command.opcode : Command → Byte
  | .nop => 0x00#8
  | .enc => 0x01#8
  | .dcfg => 0x02#8
  | .loc => 0x03#8
  | .dsmp => 0x04#8
  | .tophys => 0x05#8
  | .frame => 0x06#8
  | .merge => 0x07#8
  | .srst => 0x0F#8

/-- The header of a write to `a` (rule R101): W = 1, so `0x100 | a`. -/
def writeHeader (a : HostAddr) : Header := 0x100#9 ||| a.setWidth 9

/-- The header of a read of `a` (rule R101): W = 0, so `a` itself. -/
def readHeader (a : HostAddr) : Header := a.setWidth 9

/-- The encoder: a command as its command word, WR and RD as transactions. -/
def encode : Instr → HostWord
  | .nop => .command Command.nop.opcode
  | .enc => .command Command.enc.opcode
  | .dcfg => .command Command.dcfg.opcode
  | .loc => .command Command.loc.opcode
  | .dsmp => .command Command.dsmp.opcode
  | .tophys => .command Command.tophys.opcode
  | .frame => .command Command.frame.opcode
  | .merge => .command Command.merge.opcode
  | .srst => .command Command.srst.opcode
  | .wr a v => .transaction (writeHeader a) (some v)
  | .rd a => .transaction (readHeader a) none

/-- The encoded access that a number stands for, numbered as the opcode table numbers its rows: a row of at
most 8 bits is a command word (format CMD8); a longer one is a transaction (format HOST), whose header is
bits 8:0 and whose data value is what stands above them (log entry 4). -/
def tableHostWord (nbits w : Nat) : HostWord :=
  if nbits ≤ 8 then .command (BitVec.ofNat 8 w)
  else if headerIsWrite (BitVec.ofNat 9 w) then .transaction (BitVec.ofNat 9 w) (some (w / 512))
  else if w / 512 = 0 then .transaction (BitVec.ofNat 9 w) none
  else .transaction (BitVec.ofNat 9 w) (some (w / 512))

/-- What the decoder reads from the bits `w` of an opcode-table row of `nbits` bits. -/
def decodeTableWord (nbits w : Nat) : Option Instr :=
  match decode (tableHostWord nbits w) with
  | .ok i => some i
  | .error _ => none

end Sys2Proof
end

