-- ==== Sys2Proof/Config.lean ====
section
/-! DEFINITION. The parameters that the spec leaves open (rule R6): the number format of PHYS_F with its
rounding function (`PHYS_REPR`, `PHYS_BITS`, `PHYS_EPS`, rule R196), the ADC's bus address (`DEV_ADDR`)
and the host's two waits (`SETTLE_DELAY`, `SAMPLE_INTERVAL`). Each is an opaque constant: nothing can be
proved of it but the properties that the spec itself states. -/

namespace Sys2Proof
namespace Config

/-- The exact values that TOPHYS can hand to the rounding function: a signed count of rule R193 over a
denominator of rule R197 (between 1000 and 512000). -/
def IsPhysValue (q : Rat) : Prop :=
  ∃ (count : Int) (den : Nat), -131072 ≤ count ∧ count ≤ 131071 ∧ 1000 ≤ den ∧ den ≤ 512000 ∧
    q = (count : Rat) / (den : Rat)

/-- The data of a number format for PHYS_F (rules R6, R36, R196). -/
structure PhysData where
  /-- `PHYS_BITS`, the width of PHYS_F. -/
  bits : Nat
  /-- The encoding of +0. -/
  zero : BitVec bits
  /-- The number that an encoding stands for. -/
  value : BitVec bits → Rat
  /-- `PHYS_EPS`, the largest relative difference between PHYS_F and the exact value. -/
  eps : Rat
  /-- `physRound`. It is a function of the exact value alone: property (d) of rule R196. -/
  round : Rat → BitVec bits

/-- Properties (a), (b) and (c) of rule R196. (b) and (c) are asked for the values that TOPHYS can produce:
no format of finitely many bits meets (c) on all of the rationals (log entry 2). -/
structure PhysData.Meets (d : PhysData) : Prop where
  /-- (a): `physRound(0)` is the encoding of +0. -/
  round_zero : d.round 0 = d.zero
  /-- The encoding of +0 stands for 0. -/
  value_zero : d.value d.zero = 0
  /-- (b) for a positive value. -/
  round_pos : ∀ q, IsPhysValue q → 0 < q → 0 < d.value (d.round q)
  /-- (b) for a negative value. -/
  round_neg : ∀ q, IsPhysValue q → q < 0 → d.value (d.round q) < 0
  /-- (c): the tolerance. -/
  round_close : ∀ q, IsPhysValue q → |d.value (d.round q) - q| ≤ d.eps * |q|

/-- A two-bit format with the values 0, 1/512000 and -1/512000. It is no choice of the model: it only shows
that rule R196 can be met, so that the opaque constant below may be declared. -/
def signOnly : PhysData where
  bits := 2
  zero := 0
  value := fun v => if v = 1 then 1 / 512000 else if v = 2 then -(1 / 512000) else 0
  eps := 1
  round := fun q => if 0 < q then 1 else if q < 0 then 2 else 0

/-- A nonzero value of TOPHYS is at least one count over the largest denominator away from zero. -/
theorem IsPhysValue.abs_ge {q : Rat} (h : IsPhysValue q) (hq : q ≠ 0) : 1 / 512000 ≤ |q| := by
  obtain ⟨c, d, -, -, hd1, hd2, rfl⟩ := h
  have hc : c ≠ 0 := by rintro rfl; simp at hq
  have hc1 : (1 : Rat) ≤ |(c : Rat)| := by exact_mod_cast Int.one_le_abs hc
  have hd0 : (0 : Rat) < d := by exact_mod_cast (by omega : 0 < d)
  have hd3 : (d : Rat) ≤ 512000 := by exact_mod_cast hd2
  rw [abs_div, abs_of_pos hd0]
  exact div_le_div₀ (by positivity) hc1 hd0 hd3

theorem signOnly_round_pos {q : Rat} (h : 0 < q) : signOnly.value (signOnly.round q) = 1 / 512000 := by
  simp [signOnly, h]

theorem signOnly_round_neg {q : Rat} (h : q < 0) :
    signOnly.value (signOnly.round q) = -(1 / 512000) := by
  have hn : ¬ 0 < q := not_lt.mpr h.le
  simp only [signOnly, hn, h, if_false, if_true]
  exact if_neg (by decide)

theorem signOnly_meets : signOnly.Meets where
  round_zero := by simp [signOnly]
  value_zero := by simp [signOnly]
  round_pos := by intro q _ hq; rw [signOnly_round_pos hq]; norm_num
  round_neg := by intro q _ hq; rw [signOnly_round_neg hq]; norm_num
  round_close := by
    intro q h
    have he : signOnly.eps = 1 := rfl
    rcases lt_trichotomy q 0 with hq | rfl | hq
    · have hge := h.abs_ge hq.ne
      rw [abs_of_neg hq] at hge
      rw [signOnly_round_neg hq, he, one_mul, abs_of_neg hq, abs_le]
      constructor <;> linarith
    · simp [signOnly]
    · have hge := h.abs_ge hq.ne'
      rw [abs_of_pos hq] at hge
      rw [signOnly_round_pos hq, he, one_mul, abs_of_pos hq, abs_le]
      constructor <;> linarith

/-- `PHYS_REPR`: a number format that meets rule R196. The default of each field serves the deriving of
`Inhabited` and nothing else. -/
structure PhysFormat where
  data : PhysData := signOnly
  meets : data.Meets := by exact signOnly_meets
  deriving Inhabited

/-- The number format of this hardware (rule R6: OPEN). -/
opaque physFormat : PhysFormat

/-- `PHYS_BITS` (rules R6, R36). -/
def physBits : Nat := physFormat.data.bits

/-- The encoding of +0, PHYS_F's reset value (rules R36, R40). -/
def physZero : BitVec physBits := physFormat.data.zero

/-- `physRound` (rule R196). -/
def physRound (q : Rat) : BitVec physBits := physFormat.data.round q

/-- The number that a pattern of PHYS_F stands for. -/
def physValue (v : BitVec physBits) : Rat := physFormat.data.value v

/-- `PHYS_EPS` (rules R6, R196). -/
def physEps : Rat := physFormat.data.eps

/-- `DEV_ADDR`, the ADC's own bus address (rules R6, R66: OPEN, its width not stated). The block never uses it. -/
opaque devAddr : Nat

/-- The host's waits (rules R6, R262, R264: OPEN, but the settling delay is the smaller). The field defaults
only show that two such waits exist. -/
structure HostTiming where
  settleDelay : Rat := 0
  sampleInterval : Rat := 1
  settle_lt : settleDelay < sampleInterval := by decide
  deriving Inhabited

/-- `SETTLE_DELAY` and `SAMPLE_INTERVAL`, environment premises that no step reads. -/
opaque hostTiming : HostTiming

end Config
end Sys2Proof
end

