-- ==== Sys2Proof/Machine/State.lean ====
section
/-! DEFINITION. The machine's state as plain data: the block's registers (rule R20), and the host agent's side of
the interface (rule R12); the reasons a step can stop; reset (rules R40, R250). -/

namespace Sys2Proof
namespace Machine

/-- The block's architectural state: exactly the tuple of rule R20, with the widths of rules R24 to R36. CMD
holds no state (rule R23), and nothing else holds a value between accesses (rule R41). -/
structure Block where
  /-- STATUS: FINFO, ERR and CAUSE (rule R24). -/
  status : BitVec 12
  /-- FLEN: the number of valid bytes in the frame buffer (rule R27). -/
  flen : BitVec 3
  /-- FRAME0 to FRAME4: the frame buffer (rule R26). -/
  frame0 : Byte
  frame1 : Byte
  frame2 : Byte
  frame3 : Byte
  frame4 : Byte
  /-- CFGBYTE: one configuration byte in the device layout (rule R28). -/
  cfgbyte : Byte
  /-- LOCIDX: where the configuration byte was found (rule R31). -/
  locidx : BitVec 3
  /-- CONF: one configuration (rule R29). -/
  conf : BitVec 9
  /-- PCONF: one partial configuration (rule R30). -/
  pconf : BitVec 14
  /-- RAW: one raw sample (rule R32). -/
  raw : BitVec 18
  /-- SIGNED: the signed count, as its two's-complement pattern (rule R33). -/
  signed : BitVec 18
  /-- PHYS_DEN: the denominator of the exact physical value (rule R34). -/
  physDen : BitVec 19
  /-- PHYS_F: the physical value in the format PHYS_REPR (rule R36). -/
  physF : BitVec Config.physBits
  deriving DecidableEq, Repr

/-- The host's side of the interface (the model's own fields, log entry 1): what it has issued and the block has
not yet taken, oldest first (rule R73), and the values that its reads have returned, newest first. -/
structure HostAgent where
  pending : List HostInput
  received : List Nat
  deriving DecidableEq, Repr

/-- The whole state: the block and its one host (rule R12). -/
structure State where
  block : Block
  host : HostAgent
  deriving DecidableEq, Repr

/-- Why the machine would stop with a fault: never. The block's own faults are recorded in STATUS and the
machine goes on (rule R226), so this type has no constructor. -/
inductive Fault where
  deriving DecidableEq, Repr

/-- Why the machine refuses a step. -/
inductive Refusal where
  /-- Raised by an arm of `exec` whose instruction has no meaning yet. Safe: nothing is claimed of it. -/
  | notModelled (mnemonic : String)
  /-- Raised by the input step for an access of a second host, which rule R241 tells a model to refuse. Safe: such
  programs get no meaning. -/
  | secondHost
  /-- Raised by the input step for a write transaction without data or a read transaction with data: rule R101
  has no such transaction (DEDUCED, log entry 5). Safe: it is not given a meaning. -/
  | malformedTransaction
  deriving DecidableEq, Repr

/-- The cause names of rule R221. Code 0 is "none" and code 7 is never written. -/
inductive Cause where
  | illegalCmd | invalidArg | frameShort | frameNoMarker | frameLayout | badAccess
  deriving DecidableEq, Repr

/-- What `raise Fault(cause, info)` hands over (rules R9, R226). -/
structure FaultReport where
  cause : Cause
  info : Byte
  deriving DecidableEq, Repr

/-- What a command comes to: the block with the command's results, or the fault that it raises. Every check
comes before the first write (rule R9), so a raised command has no results. -/
abbrev CommandResult := Except FaultReport Block

/-- Every register at its reset value (rule R40). -/
def Block.reset : Block where
  status := 0x000#12
  flen := 0#3
  frame0 := 0x00#8
  frame1 := 0x00#8
  frame2 := 0x00#8
  frame3 := 0x00#8
  frame4 := 0x00#8
  cfgbyte := 0x00#8
  locidx := 0#3
  conf := 0x000#9
  pconf := 0x0000#14
  raw := 0x00000#18
  signed := 0#18
  physDen := 0#19
  physF := Config.physZero

/-- The machine right after reset: the block at its reset values (rule R251), and a host that has issued nothing
and received nothing (DESIGN CHOICE, log entry 1). -/
def State.reset : State where
  block := Block.reset
  host := { pending := [], received := [] }

end Machine
end Sys2Proof
end

