-- ==== Sys2Proof/Machine/Flags.lean ====
section
/-! DEFINITION. STATUS: its fields (rule R24), the block's one flag ERR (rule R25), and the cause codes (rule R221). -/

namespace Sys2Proof
namespace Machine

/-- The code of a cause, as written to STATUS.CAUSE (rule R221). -/
def Cause.code : Cause → BitVec 3
  | .illegalCmd => 1#3
  | .invalidArg => 2#3
  | .frameShort => 3#3
  | .frameNoMarker => 4#3
  | .frameLayout => 5#3
  | .badAccess => 6#3

/-- STATUS.CAUSE, bits 2:0 (rule R24). -/
def statusCause (status : BitVec 12) : BitVec 3 := status.extractLsb' 0 3

/-- STATUS.ERR, bit 3 (rule R24). -/
def statusErr (status : BitVec 12) : Bool := status.getLsbD 3

/-- STATUS.FINFO, bits 11:4 (rule R24). -/
def statusInfo (status : BitVec 12) : Byte := status.extractLsb' 4 8

/-- STATUS after a fault: FINFO, ERR = 1 and CAUSE (rules R24, R226). -/
def faultStatus (r : FaultReport) : BitVec 12 := r.info ++ 1#1 ++ r.cause.code

/-- Is the block faulted, that is, ERR = 1 (rule R126)? -/
def Block.err (b : Block) : Bool := statusErr b.status

end Machine
end Sys2Proof
end

