-- ==== Sys2Proof/Machine/Operands.lean ====
section
/-! DEFINITION. The operands of accesses and commands: the register map (rules R62, R120), the fields of CONF and
PCONF (rules R29, R30), the codes of the enumerations (rules R10, R92) and the frame buffer (rule R26). -/

namespace Sys2Proof
namespace Machine

/-! The register map. -/

/-- The register at a host address (rule R62); `none` for an unmapped one (rule R63). -/
def regAt (a : HostAddr) : Option RegName :=
  match a.toNat with
  | 0x00 => some .cmd
  | 0x01 => some .status
  | 0x02 => some .flen
  | 0x03 => some .frame0
  | 0x04 => some .frame1
  | 0x05 => some .frame2
  | 0x06 => some .frame3
  | 0x07 => some .frame4
  | 0x08 => some .cfgbyte
  | 0x09 => some .locidx
  | 0x0A => some .conf
  | 0x0B => some .pconf
  | 0x0C => some .raw
  | 0x0D => some .signed
  | 0x0E => some .physDen
  | 0x0F => some .physF
  | _ => none

/-- The host address of a register (rule R62). -/
def regAddr : RegName → HostAddr
  | .cmd => 0x00#8
  | .status => 0x01#8
  | .flen => 0x02#8
  | .frame0 => 0x03#8
  | .frame1 => 0x04#8
  | .frame2 => 0x05#8
  | .frame3 => 0x06#8
  | .frame4 => 0x07#8
  | .cfgbyte => 0x08#8
  | .locidx => 0x09#8
  | .conf => 0x0A#8
  | .pconf => 0x0B#8
  | .raw => 0x0C#8
  | .signed => 0x0D#8
  | .physDen => 0x0E#8
  | .physF => 0x0F#8

/-- `width(a)`, the width of a register (rules R62, R120). -/
def regWidth : RegName → Nat
  | .cmd => 8
  | .status => 12
  | .flen => 3
  | .frame0 => 8
  | .frame1 => 8
  | .frame2 => 8
  | .frame3 => 8
  | .frame4 => 8
  | .cfgbyte => 8
  | .locidx => 3
  | .conf => 9
  | .pconf => 14
  | .raw => 18
  | .signed => 18
  | .physDen => 19
  | .physF => Config.physBits

/-- `readable(a)`: every mapped register but CMD (rule R120). -/
def regReadable : RegName → Bool
  | .cmd => false
  | .status | .flen | .frame0 | .frame1 | .frame2 | .frame3 | .frame4 | .cfgbyte | .locidx | .conf | .pconf
  | .raw | .signed | .physDen | .physF => true

/-- `writable(a)` (rule R120). -/
def regWritable : RegName → Bool
  | .cmd | .flen | .frame0 | .frame1 | .frame2 | .frame3 | .frame4 | .cfgbyte | .conf | .pconf | .raw => true
  | .status | .locidx | .signed | .physDen | .physF => false

/-! The enumerations. -/

/-- The resolution of a code (rule R92). -/
def resolutionOfCode (code : BitVec 2) : Resolution :=
  match code.toNat with
  | 0 => .bits12
  | 1 => .bits14
  | 2 => .bits16
  | _ => .bits18

/-- The code of a resolution (rule R92). -/
def resolutionCode : Resolution → BitVec 2
  | .bits12 => 0#2
  | .bits14 => 1#2
  | .bits16 => 2#2
  | .bits18 => 3#2

/-- The gain of a 0-based code (rule R92). -/
def gainOfCode (code : BitVec 2) : Gain :=
  match code.toNat with
  | 0 => .x1
  | 1 => .x2
  | 2 => .x4
  | _ => .x8

/-- The 0-based code of a gain (rule R92). -/
def gainCode : Gain → BitVec 2
  | .x1 => 0#2
  | .x2 => 1#2
  | .x4 => 2#2
  | .x8 => 3#2

/-- The code of a mode (rules R10, R92). -/
def modeCode : Mode → BitVec 1
  | .oneShot => 0#1
  | .continuous => 1#1

/-! CONF (rule R29). -/

/-- CONF.GAIN, bits 1:0. -/
def confGain (c : BitVec 9) : BitVec 2 := c.extractLsb' 0 2

/-- CONF.RES, bits 3:2. -/
def confRes (c : BitVec 9) : BitVec 2 := c.extractLsb' 2 2

/-- CONF.MODE, bit 4. -/
def confMode (c : BitVec 9) : BitVec 1 := c.extractLsb' 4 1

/-- CONF.CHANNEL, bits 7:5, the 1-based channel number (rule R146). -/
def confChannel (c : BitVec 9) : BitVec 3 := c.extractLsb' 5 3

/-- CONF.READY, bit 8. -/
def confReady (c : BitVec 9) : BitVec 1 := c.extractLsb' 8 1

/-- A CONF value from its fields. -/
def packConf (ready : BitVec 1) (channel : BitVec 3) (mode : BitVec 1) (res gain : BitVec 2) : BitVec 9 :=
  ready ++ channel ++ mode ++ res ++ gain

/-- The resolution that CONF selects. -/
def confResolution (c : BitVec 9) : Resolution := resolutionOfCode (confRes c)

/-- Is the 1-based channel number one of 1 to 4? -/
def validChannel (channel : BitVec 3) : Bool := decide (1 ≤ channel.toNat) && decide (channel.toNat ≤ 4)

/-- `ValidConf(c)` (rule R38). -/
def validConf (c : BitVec 9) : Bool := validChannel (confChannel c)

/-! PCONF (rule R30). -/

/-- PCONF.GAIN, bits 1:0. -/
def pconfGain (p : BitVec 14) : BitVec 2 := p.extractLsb' 0 2

/-- PCONF.GAIN_SET, bit 2. -/
def pconfGainSet (p : BitVec 14) : Bool := p.getLsbD 2

/-- PCONF.RES, bits 4:3. -/
def pconfRes (p : BitVec 14) : BitVec 2 := p.extractLsb' 3 2

/-- PCONF.RES_SET, bit 5. -/
def pconfResSet (p : BitVec 14) : Bool := p.getLsbD 5

/-- PCONF.MODE, bit 6. -/
def pconfMode (p : BitVec 14) : BitVec 1 := p.extractLsb' 6 1

/-- PCONF.MODE_SET, bit 7. -/
def pconfModeSet (p : BitVec 14) : Bool := p.getLsbD 7

/-- PCONF.CHANNEL, bits 10:8, the 1-based channel number (rule R146). -/
def pconfChannel (p : BitVec 14) : BitVec 3 := p.extractLsb' 8 3

/-- PCONF.CHANNEL_SET, bit 11. -/
def pconfChannelSet (p : BitVec 14) : Bool := p.getLsbD 11

/-- PCONF.READY, bit 12. -/
def pconfReady (p : BitVec 14) : BitVec 1 := p.extractLsb' 12 1

/-- PCONF.READY_SET, bit 13. -/
def pconfReadySet (p : BitVec 14) : Bool := p.getLsbD 13

/-! The frame buffer. -/

/-- `FRAME[i]`, register FRAMEi, for i from 0 to 4 (rule R26). No caller asks for another i: every command checks
FLEN first (rule R160). -/
def Block.frameAt (b : Block) : Nat → Byte
  | 0 => b.frame0
  | 1 => b.frame1
  | 2 => b.frame2
  | 3 => b.frame3
  | 4 => b.frame4
  | _ => 0x00#8

end Machine
end Sys2Proof
end

