-- ==== Sys2Proof/Machine/Ops.lean ====
section
/-! DEFINITION. The shared operations: taking a fault (rule R226) and leaving the faulted state by reset (rules R231,
R250), running a command (rules R125, R126), reading and writing one register (rules R121, R123), and taking
the host's next input (rule R73). -/

namespace Sys2Proof
namespace Machine

/-- Taking a fault: CAUSE, FINFO and ERR are written and nothing else (rule R226). A fault cannot be taken while
ERR = 1, so the first one stays (rule R230). -/
def Block.raiseFault (b : Block) (r : FaultReport) : Block :=
  if b.err then b else { b with status := faultStatus r }

/-- Reset, by the RST input or by SRST: every register of the block takes its reset value (rules R211, R250).
It is the only way out of the faulted state (rule R231). The host's own side is not touched. -/
def State.resetBlock (s : State) : State := { s with block := Block.reset }

/-- The end of a command: its results, or the fault that it raised. -/
def Block.finish (b : Block) : CommandResult → Block
  | .ok b' => b'
  | .error r => b.raiseFault r

/-- A command is carried out to its end while ERR = 0 (rule R125), and ignored while ERR = 1 (rule R126). -/
def State.runCommand (s : State) (body : Block → CommandResult) : State :=
  if s.block.err then s else { s with block := s.block.finish (body s.block) }

/-- The pattern of one register, an unsigned number below 2^width (rule R121). CMD cannot be read: 0 (rule R122). -/
def Block.readReg (b : Block) : RegName → Nat
  | .cmd => 0
  | .status => b.status.toNat
  | .flen => b.flen.toNat
  | .frame0 => b.frame0.toNat
  | .frame1 => b.frame1.toNat
  | .frame2 => b.frame2.toNat
  | .frame3 => b.frame3.toNat
  | .frame4 => b.frame4.toNat
  | .cfgbyte => b.cfgbyte.toNat
  | .locidx => b.locidx.toNat
  | .conf => b.conf.toNat
  | .pconf => b.pconf.toNat
  | .raw => b.raw.toNat
  | .signed => b.signed.toNat
  | .physDen => b.physDen.toNat
  | .physF => b.physF.toNat

/-- Storing a value that fits in one data register (rule R123). CMD keeps no value (rule R23), and the read-only
registers are not written (rule R124). -/
def Block.writeReg (b : Block) (r : RegName) (v : Nat) : Block :=
  match r with
  | .cmd => b
  | .status => b
  | .flen => { b with flen := BitVec.ofNat 3 v }
  | .frame0 => { b with frame0 := BitVec.ofNat 8 v }
  | .frame1 => { b with frame1 := BitVec.ofNat 8 v }
  | .frame2 => { b with frame2 := BitVec.ofNat 8 v }
  | .frame3 => { b with frame3 := BitVec.ofNat 8 v }
  | .frame4 => { b with frame4 := BitVec.ofNat 8 v }
  | .cfgbyte => { b with cfgbyte := BitVec.ofNat 8 v }
  | .locidx => b
  | .conf => { b with conf := BitVec.ofNat 9 v }
  | .pconf => { b with pconf := BitVec.ofNat 14 v }
  | .raw => { b with raw := BitVec.ofNat 18 v }
  | .signed => b
  | .physDen => b
  | .physF => b

/-- A read hands its value to the host (rule R101). -/
def State.receive (s : State) (v : Nat) : State :=
  { s with host := { s.host with received := v :: s.host.received } }

/-- The host issues one more access ahead of all that is pending. -/
def State.issueNext (s : State) (input : HostInput) : State :=
  { s with host := { s.host with pending := input :: s.host.pending } }

/-- The oldest input that the block has not taken, and the state without it: inputs are taken one at a time, in
the order in which they were issued (rule R73). -/
def State.takeInput (s : State) : Option (HostInput × State) :=
  match s.host.pending with
  | [] => none
  | input :: rest => some (input, { s with host := { s.host with pending := rest } })

end Machine
end Sys2Proof
end

