-- ==== Sys2Proof/Machine/Control.lean ====
section
/-! DEFINITION. The control commands: NOP (rule R210) and SRST (rule R211). -/

namespace Sys2Proof
namespace Machine

/-- NOP: no register is read or written (rule R210). -/
def nopBody (b : Block) : CommandResult := .ok b

/-- SRST: every register takes its reset value (rule R211). -/
def srstBody (_ : Block) : CommandResult := .ok Block.reset

/-- The meaning of NOP (rule R210). -/
def execNop (s : State) : Host.Outcome State Fault Refusal := .next (s.runCommand nopBody)

/-- The meaning of SRST (rule R211): the one command that the block takes while ERR = 1, too (rule R126). -/
def execSrst (s : State) : Host.Outcome State Fault Refusal := .next s.resetBlock

end Machine
end Sys2Proof
end

