-- ==== Sys2Proof/Machine/Conversion.lean ====
section
/-! DEFINITION. Sign interpretation and the fixed LSB and gain multiplier: TOPHYS (rule R195), with the constant
tables of rules R190 and R191 and the functions of rules R192 and R193. There is no offset (rule R5). -/

namespace Sys2Proof
namespace Machine

/-- `LSB_DEN`: volts per count is the reciprocal of this (rule R190). -/
def lsbDen : Resolution → Nat
  | .bits12 => 1000
  | .bits14 => 4000
  | .bits16 => 16000
  | .bits18 => 64000

/-- `GAIN_MUL`, by lookup and never by arithmetic on the code (rule R191). -/
def gainMul : Gain → Nat
  | .x1 => 1
  | .x2 => 2
  | .x4 => 4
  | .x8 => 8

/-- `W(res)`, the nominal output width (rule R192). -/
def nominalWidth : Resolution → Nat
  | .bits12 => 16
  | .bits14 => 16
  | .bits16 => 16
  | .bits18 => 18

/-- `MASK(res)` (rule R192). -/
def nominalMask (res : Resolution) : Nat := 0xFFFFFFFF >>> (32 - nominalWidth res)

/-- `signedOf(raw, res)` (rule R193). -/
def signedOf (raw : Nat) (res : Resolution) : Int :=
  if raw.testBit (nominalWidth res - 1) then -(((raw ^^^ nominalMask res : Nat) : Int) + 1) else (raw : Int)

/-- The denominator of the exact value (rule R197). -/
def physDenominator (res : Resolution) (gain : Gain) : Nat := lsbDen res * gainMul gain

/-- The exact value `s / den`, in volts (rules R195, R200). -/
def exactValue (count : Int) (den : Nat) : Rat := (count : Rat) / (den : Rat)

/-- The gain that CONF selects. -/
def confGainOf (c : BitVec 9) : Gain := gainOfCode (confGain c)

/-- TOPHYS (rule R195). -/
def tophysBody (b : Block) : CommandResult :=
  if !validConf b.conf then .error ⟨.invalidArg, 0x05#8⟩
  else if b.raw.toNat ≥ 2 ^ nominalWidth (confResolution b.conf) then .error ⟨.invalidArg, 0x05#8⟩
  else
    let count := signedOf b.raw.toNat (confResolution b.conf)
    let den := physDenominator (confResolution b.conf) (confGainOf b.conf)
    .ok { b with
      signed := BitVec.ofInt 18 count, physDen := BitVec.ofNat 19 den,
      physF := Config.physRound (exactValue count den) }

/-- The exact physical value of the last TOPHYS, `SIGNED / PHYS_DEN`, defined only when PHYS_DEN is not 0 (rule R35).
It is not a register. -/
def Block.physValue (b : Block) : Option Rat :=
  if b.physDen = 0 then none else some (exactValue b.signed.toInt b.physDen.toNat)

/-- The meaning of TOPHYS (rule R195). -/
def execTophys (s : State) : Host.Outcome State Fault Refusal := .next (s.runCommand tophysBody)

end Machine
end Sys2Proof
end

