-- ==== Sys2Proof/Machine/ConfigCodec.lean ====
section
/-! DEFINITION. The configuration-byte codec: ENC (rule R140), DCFG (rule R141) and MERGE (rule R142). -/

namespace Sys2Proof
namespace Machine

/-- The configuration byte of a CONF value, `RDY | CHANNEL - 1 | MODE | RESOLUTION | GAIN` from bit 7 down
(rules R91, R140). The channel is 1 to 4 where this is used, so its two low bits less 1 are the code. -/
def encodeConf (c : BitVec 9) : Byte :=
  confReady c ++ (confChannel c - 1#3).extractLsb' 0 2 ++ confMode c ++ confRes c ++ confGain c

/-- The CONF value of a configuration byte (rules R91, R141). -/
def decodeConf (b : Byte) : BitVec 9 :=
  packConf (b.extractLsb' 7 1) (((b &&& 0x60#8) >>> 5).setWidth 3 + 1#3)
    (((b &&& 0x10#8) >>> 4).setWidth 1) (((b &&& 0x0C#8) >>> 2).setWidth 2) ((b &&& 0x03#8).setWidth 2)

/-- CONF with every field of PCONF whose SET bit is 1, and its own fields elsewhere (rule R142). -/
def mergeConf (c : BitVec 9) (p : BitVec 14) : BitVec 9 :=
  packConf
    (if pconfReadySet p then pconfReady p else confReady c)
    (if pconfChannelSet p then pconfChannel p else confChannel c)
    (if pconfModeSet p then pconfMode p else confMode c)
    (if pconfResSet p then pconfRes p else confRes c)
    (if pconfGainSet p then pconfGain p else confGain c)

/-- ENC (rule R140): CONF, if it is a configuration, is packed into CFGBYTE. -/
def encBody (b : Block) : CommandResult :=
  if validConf b.conf then .ok { b with cfgbyte := encodeConf b.conf }
  else .error ⟨.invalidArg, 0x01#8⟩

/-- DCFG (rule R141): CFGBYTE is unpacked into CONF; no fault. -/
def dcfgBody (b : Block) : CommandResult := .ok { b with conf := decodeConf b.cfgbyte }

/-- MERGE (rule R142): the base must be a configuration and a set channel must be in range, both checked before
CONF is written. -/
def mergeBody (b : Block) : CommandResult :=
  if !validConf b.conf then .error ⟨.invalidArg, 0x07#8⟩
  else if pconfChannelSet b.pconf && !validChannel (pconfChannel b.pconf) then .error ⟨.invalidArg, 0x07#8⟩
  else .ok { b with conf := mergeConf b.conf b.pconf }

/-- The meaning of ENC (rule R140). -/
def execEnc (s : State) : Host.Outcome State Fault Refusal := .next (s.runCommand encBody)

/-- The meaning of DCFG (rule R141). -/
def execDcfg (s : State) : Host.Outcome State Fault Refusal := .next (s.runCommand dcfgBody)

/-- The meaning of MERGE (rule R142). -/
def execMerge (s : State) : Host.Outcome State Fault Refusal := .next (s.runCommand mergeBody)

end Machine
end Sys2Proof
end

