-- ==== Sys2Proof/Machine/FrameDecode.lean ====
section
/-! DEFINITION. The sample-frame deserializer: LOC (rule R163), DSMP (rule R164) and FRAME (rule R165), with the
helpers of rules R94, R160, R161, R162 and R170. -/

namespace Sys2Proof
namespace Machine

/-- `checkFlen(min, op)` (rule R160): the fault that a frame length raises, if it raises one. -/
def Block.checkFlen (b : Block) (min : Nat) (op : Byte) : Option FaultReport :=
  if b.flen.toNat > 5 then some ⟨.invalidArg, op⟩
  else if b.flen.toNat < min then some ⟨.frameShort, op⟩
  else none

/-- `PAYLOAD(res)` (rule R161). -/
def payload : Resolution → Nat
  | .bits12 => 2
  | .bits14 => 2
  | .bits16 => 2
  | .bits18 => 3

/-- The marker of a configuration byte: the byte with its top bit forced to 1 (rule R94). -/
def markerOf (c : Byte) : Byte := c ||| 0x80#8

/-- The marker scan from marker index `i` downward, never below 3 (rule R162): the index of the configuration
byte of the first pair that matches. -/
def Block.scanFrom (b : Block) : Nat → Option Nat
  | 0 => none
  | i + 1 =>
    if i + 1 < 3 then none
    else if b.frameAt (i + 1) = markerOf (b.frameAt i) then some i
    else b.scanFrom i

/-- `locate()` (rule R162): the scan starts at the last byte of the frame. -/
def Block.locate (b : Block) : Option Nat := b.scanFrom (b.flen.toNat - 1)

/-- `assemble(res)` (rules R96, R170): big-endian; 18 of the 24 bits for Bits18, all 16 bits otherwise. -/
def Block.assemble (b : Block) : Resolution → BitVec 18
  | .bits18 => (b.frame0 ++ b.frame1 ++ b.frame2).setWidth 18
  | .bits12 => (b.frame0 ++ b.frame1).setWidth 18
  | .bits14 => (b.frame0 ++ b.frame1).setWidth 18
  | .bits16 => (b.frame0 ++ b.frame1).setWidth 18

/-- LOC (rule R163). -/
def locBody (b : Block) : CommandResult :=
  match b.checkFlen 3 0x03#8 with
  | some r => .error r
  | none =>
    match b.locate with
    | none => .error ⟨.frameNoMarker, 0x03#8⟩
    | some j => .ok { b with cfgbyte := b.frameAt j, locidx := BitVec.ofNat 3 j }

/-- DSMP (rule R164): the check of CONF comes before those of FLEN (rule R229). -/
def dsmpBody (b : Block) : CommandResult :=
  if !validConf b.conf then .error ⟨.invalidArg, 0x04#8⟩
  else
    match b.checkFlen (payload (confResolution b.conf)) 0x04#8 with
    | some r => .error r
    | none => .ok { b with raw := b.assemble (confResolution b.conf) }

/-- Where FRAME takes the configuration byte from: index 2 of a 3-byte frame, and what the scan finds otherwise
(rule R165). -/
def Block.frameConfigIndex (b : Block) : Option Nat := if b.flen.toNat = 3 then some 2 else b.locate

/-- FRAME (rule R165): the layout is checked against the resolution of the frame's own configuration byte, and
the four results are written at once. -/
def frameBody (b : Block) : CommandResult :=
  match b.checkFlen 3 0x06#8 with
  | some r => .error r
  | none =>
    match b.frameConfigIndex with
    | none => .error ⟨.frameNoMarker, 0x06#8⟩
    | some j =>
      let c := decodeConf (b.frameAt j)
      if j < payload (confResolution c) then .error ⟨.frameLayout, 0x06#8⟩
      else
        .ok { b with
          cfgbyte := b.frameAt j, locidx := BitVec.ofNat 3 j, conf := c,
          raw := b.assemble (confResolution c) }

/-- The meaning of LOC (rule R163). -/
def execLoc (s : State) : Host.Outcome State Fault Refusal := .next (s.runCommand locBody)

/-- The meaning of DSMP (rule R164). -/
def execDsmp (s : State) : Host.Outcome State Fault Refusal := .next (s.runCommand dsmpBody)

/-- The meaning of FRAME (rule R165). -/
def execFrame (s : State) : Host.Outcome State Fault Refusal := .next (s.runCommand frameBody)

end Machine
end Sys2Proof
end

