-- ==== Sys2Proof/Machine/HostAccess.lean ====
section
/-! DEFINITION. The host accesses: RD (rules R121, R122) and WR (rules R123, R124), with the execution of a command
by a write to CMD (rule R125). -/

namespace Sys2Proof
namespace Machine

/-- What each command does (rule R125). -/
def commandBody : Command → Block → CommandResult
  | .nop => nopBody
  | .enc => encBody
  | .dcfg => dcfgBody
  | .loc => locBody
  | .dsmp => dsmpBody
  | .tophys => tophysBody
  | .frame => frameBody
  | .merge => mergeBody
  | .srst => srstBody

/-- `execute(v)` (rule R125): a legal command word runs its command, and any other raises ILLEGAL_CMD with the word
(rules R99, R227). -/
def executeBody (word : Byte) (b : Block) : CommandResult :=
  match decodeCommand word with
  | some c => commandBody c b
  | none => .error ⟨.illegalCmd, word⟩

/-- The block after a write while ERR = 0: a bad write faults and stores nothing (rule R124), a write to CMD runs
the command, and any other is stored (rule R123). -/
def writeBody (a : HostAddr) (v : Nat) (b : Block) : CommandResult :=
  match regAt a with
  | none => .error ⟨.badAccess, a⟩
  | some r =>
    if !regWritable r then .error ⟨.badAccess, a⟩
    else if v ≥ 2 ^ regWidth r then .error ⟨.badAccess, a⟩
    else if r = .cmd then executeBody (BitVec.ofNat 8 v) b
    else .ok (b.writeReg r v)

/-- A bad read returns 0, and records BAD_ACCESS unless ERR is set already (rules R121, R122). -/
def State.badRead (s : State) (a : HostAddr) : State :=
  ({ s with block := s.block.raiseFault ⟨.badAccess, a⟩ } : State).receive 0

/-- The meaning of RD (rule R121): the pattern of a readable register, with no side effect on the block (rule R65),
whether or not ERR is set. -/
def execRd (a : HostAddr) (s : State) : Host.Outcome State Fault Refusal :=
  match regAt a with
  | none => .next (s.badRead a)
  | some r => if regReadable r then .next (s.receive (s.block.readReg r)) else .next (s.badRead a)

/-- The meaning of WR (rule R123). While ERR = 1 every write is ignored, but for the one that runs SRST (rule R126). -/
def execWr (a : HostAddr) (v : Nat) (s : State) : Host.Outcome State Fault Refusal :=
  if s.block.err then
    if a = regAddr .cmd ∧ v = 0x0F then .next s.resetBlock else .next s
  else .next { s with block := s.block.finish (writeBody a v s.block) }

/-- A command word that decodes to no command: a write of it to CMD raises ILLEGAL_CMD (rules R99, R227), or is
ignored while ERR = 1 (rule R126). -/
def State.illegalCommand (s : State) (word : Byte) : State := s.runCommand (executeBody word)

end Machine
end Sys2Proof
end

