-- ==== Sys2Proof/Machine/Dispatch.lean ====
section
/-! DEFINITION. One arm per instruction: which meaning each constructor has. -/

namespace Sys2Proof
namespace Machine

def exec (i : Instr) (s : State) : Host.Outcome State Fault Refusal :=
  match i with
  -- control commands (rules R210, R211)
  | .nop => Sys2Proof.Machine.execNop s
  | .srst => Sys2Proof.Machine.execSrst s
  -- configuration-byte codec (rules R140, R141, R142)
  | .enc => Sys2Proof.Machine.execEnc s
  | .dcfg => Sys2Proof.Machine.execDcfg s
  | .merge => Sys2Proof.Machine.execMerge s
  -- sample-frame deserializer (rules R163, R164, R165)
  | .loc => Sys2Proof.Machine.execLoc s
  | .dsmp => Sys2Proof.Machine.execDsmp s
  | .frame => Sys2Proof.Machine.execFrame s
  -- sign interpretation and multiplier (rule R195)
  | .tophys => Sys2Proof.Machine.execTophys s
  -- host accesses (rules R121, R123)
  | .wr a v => Sys2Proof.Machine.execWr a v s
  | .rd a => Sys2Proof.Machine.execRd a s

end Machine
end Sys2Proof
end

