-- ==== Sys2Proof/Machine/Input.lean ====
section
/-! DEFINITION. What the block does with one input: an access of the host is decoded and run, RST resets the block
(rule R250), and a second host is refused (rule R241). -/

namespace Sys2Proof
namespace Machine

/-- An encoded access: the instruction it decodes to, ILLEGAL_CMD for an illegal command word (rule R125), and a
refusal for what rule R101 knows no transaction for. -/
def runAccess (word : HostWord) (s : State) : Host.Outcome State Fault Refusal :=
  match decode word with
  | .ok i => exec i s
  | .error (.illegalCommand w) => .next (s.illegalCommand w)
  | .error .writeWithoutData => .refused .malformedTransaction
  | .error .readWithData => .refused .malformedTransaction

/-- One input, after it has been taken from the pending ones. -/
def runInput (input : HostInput) (s : State) : Host.Outcome State Fault Refusal :=
  match input with
  | .access word => runAccess word s
  | .rst => .next s.resetBlock
  | .secondHost _ => .refused .secondHost

/-- The state in which the next input is the access that an opcode-table word stands for. -/
def State.issueTableWord (s : State) (nbits w : Nat) : State := s.issueNext (.access (tableHostWord nbits w))

end Machine
end Sys2Proof
end

