-- ==== Sys2Proof/Machine/Step.lean ====
section
/-! DEFINITION. One step of the machine: the block takes the host's next input and carries it out to its end
(rule R73). The block has no program counter and fetches nothing (rule R21): a program is the sequence of the
host's accesses. -/

namespace Sys2Proof
namespace Machine

/-- One step. With no input pending the block waits, and nothing changes (rules R21, R41; log entry 1). -/
def step (s : State) : Host.Outcome State Fault Refusal :=
  match s.takeInput with
  | none => .next s
  | some (input, s') => runInput input s'

/-- The state whose next step runs the instruction with the bits `w` of an opcode-table row (log entry 4). -/
def State.withFetchWord (s : State) (nbits w : Nat) : State := s.issueTableWord nbits w

end Machine
end Sys2Proof
end

