-- ==== Sys2Proof/Machine/HostPrograms.lean ====
section
/-! DEFINITION. Host programs (rules R105, R107): a program is the list of the host's accesses, and the
pseudo-instructions expand to such lists (rule R106). No step depends on this file. -/

namespace Sys2Proof
namespace Machine

/-- The line `RD <reg>` (rule R105). -/
def readLine (r : RegName) : Instr := .rd (regAddr r)

/-- The line `WR <reg>, <value>` (rule R105); the value is written as given, never truncated (rule R107). -/
def writeLine (r : RegName) (v : Nat) : Instr := .wr (regAddr r) v

/-- The registers of the frame buffer, first byte first (rule R26). -/
def frameRegs : List RegName := [.frame0, .frame1, .frame2, .frame3, .frame4]

/-- `WR FRAMEi, bi` for each byte that the buffer has room for (rules R78, R106). -/
def frameWrites (bytes : List Byte) : List Instr :=
  List.zipWith (fun r v => writeLine r v.toNat) frameRegs bytes

/-- One field of a partial configuration at bit `lo`, `w` value bits and then its SET bit; 0 if it is not set
(rule R30). -/
def partialField (lo w : Nat) : Option Nat → Nat
  | none => 0
  | some v => (v ||| 1 <<< w) <<< lo

/-- The expansions of rule R106. -/
def expandPseudo : PseudoInstr → List Instr
  | .ldframe bytes => frameWrites bytes ++ [writeLine .flen bytes.length]
  | .setconf ready channel mode res gain =>
    [writeLine .conf
      (ready.toNat <<< 8 ||| channel.toNat <<< 5 ||| (modeCode mode).toNat <<< 4 |||
        (resolutionCode res).toNat <<< 2 ||| (gainCode gain).toNat)]
  | .setpconf gain res mode channel ready =>
    [writeLine .pconf
      (partialField 0 2 (gain.map fun g => (gainCode g).toNat) |||
        partialField 3 2 (res.map fun r => (resolutionCode r).toNat) |||
        partialField 6 1 (mode.map fun m => (modeCode m).toNat) |||
        partialField 8 3 (channel.map fun c => c.toNat) ||| partialField 12 1 (ready.map fun r => r.toNat))]
  | .cmd c => [c.instr]

/-- The lines of a program, carried out one after the other (rules R73, R105). -/
def execAll : List Instr → State → Host.Outcome State Fault Refusal
  | [], s => .next s
  | i :: rest, s =>
    match exec i s with
    | .next t => execAll rest t
    | .fault r => .fault r
    | .refused r => .refused r

/-- The inputs that the host issues for a program, in program order (rules R73, R105). -/
def hostProgram (lines : List Instr) : List HostInput := lines.map fun i => .access (encode i)

end Machine
end Sys2Proof
end

