-- ==== Sys2Proof/Machine/Environment.lean ====
section
/-! DEFINITION. The environment's rules: the ADC's bus frames (rules R66 to R69, R266) and the host's duties (rules R255
to R265), which the spec keeps outside the block (rule R4). They are here so that a claim about a whole system
can name them as premises. No step depends on this file, and no input of the block carries a bus frame: the
ADC's reset does not reset the block (rule R252). -/

namespace Sys2Proof
namespace Machine

/-- A write on the ADC's bus: the bus address and the bytes. -/
structure BusWrite where
  address : Nat
  bytes : List Byte
  deriving DecidableEq, Repr

/-- The general-call address, to which every device listens (rule R66). -/
def generalCallAddress : Nat := 0x00

/-- The configuration write: exactly one byte, CFGBYTE (rule R67). -/
def configWrite (b : Block) : BusWrite := { address := Config.devAddr, bytes := [b.cfgbyte] }

/-- The ADC's reset: the byte 0x06 to the general-call address, and no read (rules R69, R266). -/
def deviceReset : BusWrite := { address := generalCallAddress, bytes := [0x06#8] }

/-- The lengths of a read frame: 3 bytes, or 4 to 5 in self-identifying mode (rule R68). -/
def readFrameLength (n : Nat) : Bool := decide (3 ≤ n) && decide (n ≤ 5)

/-- The resolution that the device's configuration byte `c` selects (rules R91, R92). -/
def deviceResolution (c : Byte) : Resolution := confResolution (decodeConf c)

/-- A read frame of 3 bytes, which a device configured by `c` returns at 12, 14 and 16 bits only (rule R68). -/
def plainReadFrame (c : Byte) (frame : List Byte) : Bool :=
  decide (frame.length = 3) && decide (deviceResolution c ≠ .bits18)

/-- A read frame of self-identifying mode: 4 or 5 bytes, the last of which is the marker of the configuration byte `c`
(rules R68, R94; that it is the byte in effect is DEDUCED, log entry 10). It occurs at any resolution (90_conflicts.md C5), and the transport settles which of the two
lengths it has. -/
def selfIdentifyingReadFrame (c : Byte) (frame : List Byte) : Bool :=
  (decide (frame.length = 4) || decide (frame.length = 5)) && decide (frame.getLast? = some (markerOf c))

/-- The frames that a read from a device configured by `c` returns (rule R68). -/
def readFrame (c : Byte) (frame : List Byte) : Bool := plainReadFrame c frame || selfIdentifyingReadFrame c frame

/-- The layout of a read frame (rule R95): the payload, the configuration byte `c`, and in self-identifying mode its
marker. -/
def deviceFrame (c : Byte) (data : List Byte) (selfIdentifying : Bool) : List Byte :=
  data ++ c :: if selfIdentifying then [markerOf c] else []

/-- The frame buffer presents this frame: its bytes in the order received, and their number in FLEN. A frame longer than
5 bytes cannot be presented (rules R68, R78). -/
def Block.presents (b : Block) (frame : List Byte) : Prop :=
  frame.length ≤ 5 ∧ b.flen.toNat = frame.length ∧ (List.range frame.length).map b.frameAt = frame

/-- The one-shot read: load the frame, decode it, convert it; no bus write (rule R260). -/
def readOnce (frame : List Byte) : List Instr := expandPseudo (.ldframe frame) ++ [.frame, .tophys]

/-- Selecting a channel on top of the configuration in CONF, up to the read of the byte that the host then sends to
the ADC (rules R255, R262). -/
def selectChannel (channel : BitVec 3) : List Instr :=
  expandPseudo (.setpconf none none none (some channel) none) ++ [.merge, .enc, readLine .cfgbyte]

/-- The settling delay is waited only when the channel changed (rule R262). -/
def settleRequired (previous next : BitVec 3) : Bool := previous != next

/-- The channel selections of a continuous read, one row of channels for each sample tick (rule R264). -/
def continuousOrder (channels : List (BitVec 3)) (maxSamples : Nat) : List (BitVec 3) :=
  (List.replicate maxSamples channels).flatten

/-- The phases of a session (rule R265). -/
inductive SessionPhase where
  | idle | configuring | writing | settlingDelay | reading
  deriving DecidableEq, Repr

/-- The phases that may follow (rule R265): `reading` may go on to the next channel, and a failure in it aborts the
session, which ends in `idle` (rule R235). -/
def SessionPhase.successors : SessionPhase → List SessionPhase
  | .idle => [.configuring]
  | .configuring => [.writing]
  | .writing => [.settlingDelay]
  | .settlingDelay => [.reading]
  | .reading => [.idle, .configuring]

end Machine
end Sys2Proof
end

