-- ==== Sys2Proof/Safety.lean ====
section
/-! DEFINITION. What claims are stated in: the block is healthy, and the invariant of the block's registers that every
step keeps. -/

namespace Sys2Proof
namespace Machine

/-- No fault has been taken since reset (rule R127). -/
def Block.healthy (b : Block) : Prop := b.err = false

/-- A fault that rule R221 allows: FINFO is the command word of a command that raises the cause, a word that is no
command, or, for a bad access, any host address. -/
def FaultReport.legal (r : FaultReport) : Bool :=
  match r.cause with
  | .illegalCmd => !legalCommandWord r.info
  | .invalidArg => decide (1 ≤ r.info.toNat) && decide (r.info.toNat ≤ 7) && decide (r.info ≠ 0x02#8)
  | .frameShort => decide (r.info = 0x03#8) || decide (r.info = 0x04#8) || decide (r.info = 0x06#8)
  | .frameNoMarker => decide (r.info = 0x03#8) || decide (r.info = 0x06#8)
  | .frameLayout => decide (r.info = 0x06#8)
  | .badAccess => true

/-- STATUS is 0, or it is what one legal fault writes (rules R24, R221, R226). -/
def Block.statusLegal (b : Block) : Prop :=
  b.status = 0 ∨ ∃ r : FaultReport, r.legal = true ∧ b.status = faultStatus r

/-- LOCIDX is 0, or an index at which a configuration byte can be found (rule R31). -/
def Block.locidxLegal (b : Block) : Prop := b.locidx = 0 ∨ b.locidx = 2 ∨ b.locidx = 3

/-- The conversion registers hold what reset leaves, or one result: a denominator of rule R197, a count in the range of
its resolution (rule R33), and the rounded exact value (rules R35, R36). -/
def Block.conversionLegal (b : Block) : Prop :=
  (b.physDen = 0 ∧ b.signed = 0 ∧ b.physF = Config.physZero) ∨
  ∃ (res : Resolution) (gain : Gain),
    b.physDen.toNat = physDenominator res gain ∧
    -(2 ^ (nominalWidth res - 1)) ≤ b.signed.toInt ∧ b.signed.toInt < 2 ^ (nominalWidth res - 1) ∧
    b.physF = Config.physRound (exactValue b.signed.toInt b.physDen.toNat)

/-- The invariant of the block's registers. -/
def Block.Inv (b : Block) : Prop := b.statusLegal ∧ b.locidxLegal ∧ b.conversionLegal

/-- The invariant of the machine. -/
def State.Inv (s : State) : Prop := s.block.Inv

/-- The block with the bytes `g` in place of FRAME[n] to FRAME4, for claims about what a command does not read (rule R27). -/
def Block.fillBeyond (b : Block) (n : Nat) (g : List Byte) : Block :=
  { b with
    frame0 := if n ≤ 0 then g.getD 0 0 else b.frame0
    frame1 := if n ≤ 1 then g.getD 1 0 else b.frame1
    frame2 := if n ≤ 2 then g.getD 2 0 else b.frame2
    frame3 := if n ≤ 3 then g.getD 3 0 else b.frame3
    frame4 := if n ≤ 4 then g.getD 4 0 else b.frame4 }

end Machine
end Sys2Proof
end

