-- ==== Sys2Proof/Certificates/Slice0/Obligations.lean ====
section
/-! DEFINITION. The statements for the provers. Each docstring names the rule of the spec that it formalises. Register
values are written as numbers over `toNat`, not through the model's own field functions, so that a wrong bit in
one of those makes a statement false. "Next state equal to the old one with these registers changed" states the
result, the frame and the completion of an instruction at once. -/

open Sys2Proof Sys2Proof.Machine

/-! Encoding. -/

/-- Rules R98, R101, R102, R105: decoding the encoding of any instruction gives it back, and an access that decodes has
one encoding. -/
def Obligations.DecodeEncodeAgree : Prop :=
  (∀ i : Instr, decode (encode i) = .ok i) ∧
  ∀ (word : HostWord) (i : Instr), decode word = .ok i → encode i = word

/-- The accesses that decode are exactly the well-formed ones. For command words this is rule R99. That a write without
data and a read with data decode to nothing is the model's reading, log entry 5 (DEDUCED): rule R101 gives a write
one data value and a read none, and does not say what becomes of such a transaction. -/
def Obligations.WellFormedWordsDecode : Prop :=
  ∀ word : HostWord, word.wellFormed = true ↔ ∃ i : Instr, decode word = .ok i

/-- Rules R98, R99 and R102: the command decoder on all 256 words. -/
def Obligations.CommandDecoderMap : Prop :=
  ∀ word : Byte,
    (word = 0x00#8 → decodeCommand word = some .nop) ∧
    (word = 0x01#8 → decodeCommand word = some .enc) ∧
    (word = 0x02#8 → decodeCommand word = some .dcfg) ∧
    (word = 0x03#8 → decodeCommand word = some .loc) ∧
    (word = 0x04#8 → decodeCommand word = some .dsmp) ∧
    (word = 0x05#8 → decodeCommand word = some .tophys) ∧
    (word = 0x06#8 → decodeCommand word = some .frame) ∧
    (word = 0x07#8 → decodeCommand word = some .merge) ∧
    (word = 0x0F#8 → decodeCommand word = some .srst) ∧
    (0x08 ≤ word.toNat ∧ word.toNat ≤ 0x0E → decodeCommand word = none) ∧
    (0x10 ≤ word.toNat → decodeCommand word = none)

/-- Rule R101: the header of `WR a, v` is `0x100 | a`, with the data value v; the header of `RD a` is `a`, with none. -/
def Obligations.TransactionHeaders : Prop :=
  (∀ (a : HostAddr) (v : Nat), ∃ header : Header,
    encode (.wr a v) = .transaction header (some v) ∧ header.toNat = 0x100 + a.toNat) ∧
  (∀ a : HostAddr, ∃ header : Header, encode (.rd a) = .transaction header none ∧ header.toNat = a.toNat)

/-- Words written out from rules R98 and R101, one or more of each family. -/
def Obligations.WordsWrittenOut : Prop :=
  decode (.command 0b00000000#8) = .ok .nop ∧ decode (.command 0b00001111#8) = .ok .srst ∧
  decode (.command 0b00000001#8) = .ok .enc ∧ decode (.command 0b00000111#8) = .ok .merge ∧
  decode (.command 0b00000110#8) = .ok .frame ∧ decode (.command 0b00000101#8) = .ok .tophys ∧
  decode (.transaction 0b100001010#9 (some 0x059)) = .ok (.wr 0x0A#8 0x059) ∧
  decode (.transaction 0b000001000#9 none) = .ok (.rd 0x08#8)

/-- Rule R106: the expansions of the pseudo-instructions. -/
def Obligations.PseudoInstructionExpansions : Prop :=
  (∀ bytes : List Byte, bytes.length ≤ 5 →
    expandPseudo (.ldframe bytes) =
      (List.range bytes.length).map (fun i => Instr.wr (BitVec.ofNat 8 (0x03 + i)) (bytes.getD i 0).toNat) ++
        [.wr 0x02#8 bytes.length]) ∧
  (∀ (ready : Bool) (channel : BitVec 3) (mode : Mode) (res : Resolution) (gain : Gain),
    expandPseudo (.setconf ready channel mode res gain) =
      [.wr 0x0A#8 (ready.toNat * 256 + channel.toNat * 32 + (modeCode mode).toNat * 16 +
        (resolutionCode res).toNat * 4 + (gainCode gain).toNat)]) ∧
  (∀ (gain : Option Gain) (res : Option Resolution) (mode : Option Mode) (channel : Option (BitVec 3))
      (ready : Option Bool),
    expandPseudo (.setpconf gain res mode channel ready) =
      [.wr 0x0B#8 ((gain.elim 0 fun g => 4 + (gainCode g).toNat) +
        (res.elim 0 fun r => 32 + (resolutionCode r).toNat * 8) +
        (mode.elim 0 fun m => 128 + (modeCode m).toNat * 64) + (channel.elim 0 fun c => 2048 + c.toNat * 256) +
        (ready.elim 0 fun r => 8192 + r.toNat * 4096))]) ∧
  (∀ c : Command, expandPseudo (.cmd c) = [c.instr])

/-! The step. -/

/-- Rules R73, R125: when the oldest pending input is an access that decodes to `i`, the step takes that input and is the
execution of `i`. -/
def Obligations.StepRunsDecodedInstruction : Prop :=
  ∀ (s : State) (word : HostWord) (rest : List HostInput) (i : Instr),
    s.host.pending = .access word :: rest → decode word = .ok i →
    step s = exec i { s with host := { s.host with pending := rest } }

/-- Rules R105, R125: a command word, legal or not, does what the transaction does that writes it to CMD. -/
def Obligations.CommandWordIsWriteToCmd : Prop :=
  ∀ (s : State) (word : Byte) (rest : List HostInput),
    step { s with host := { s.host with pending := .access (.command word) :: rest } } =
    step { s with host := { s.host with pending := .access (.transaction 0x100#9 (some word.toNat)) :: rest } }

/-- Rule R250: the RST input and SRST have one effect, whatever the state: every register of the block takes its reset
value, and ERR is 0 after either. -/
def Obligations.RstAndSrstResetAlike : Prop :=
  ∀ (s : State) (rest : List HostInput),
    step { s with host := { s.host with pending := .rst :: rest } } =
      .next { block := State.reset.block, host := { s.host with pending := rest } } ∧
    step { s with host := { s.host with pending := .access (.command 0x0F#8) :: rest } } =
      .next { block := State.reset.block, host := { s.host with pending := rest } } ∧
    State.reset.block.err = false

/-- Rule R241: an access of a second host is refused, and given no meaning. -/
def Obligations.SecondHostIsRefused : Prop :=
  ∀ (s : State) (word : HostWord) (rest : List HostInput),
    s.host.pending = .secondHost word :: rest → step s = .refused .secondHost

/-! Reset and control commands. -/

/-- Rule R40: the value of every register after a reset, be it the start of a run, the RST input or SRST. -/
def Obligations.ResetRegisterValues : Prop :=
  ∀ b : Block,
    b = { status := 0x000#12, flen := 0#3, frame0 := 0x00#8, frame1 := 0x00#8, frame2 := 0x00#8, frame3 := 0x00#8,
          frame4 := 0x00#8, cfgbyte := 0x00#8, locidx := 0#3, conf := 0x000#9, pconf := 0x0000#14,
          raw := 0x00000#18, signed := 0#18, physDen := 0#19, physF := Config.physRound 0 } →
    State.reset.block = b ∧
    (∀ (s : State) (rest : List HostInput), s.host.pending = .rst :: rest →
      step s = .next { block := b, host := { s.host with pending := rest } }) ∧
    ∀ s : State, exec .srst s = .next { s with block := b }

/-- Rule R210: NOP, whose word is 0x00, changes nothing, faulted or not. -/
def Obligations.NopChangesNothing : Prop :=
  encode .nop = .command 0x00#8 ∧ ∀ s : State, exec .nop s = .next s

/-- Rule R211: SRST, whose word is 0x0F, gives every register its reset value, and is taken while ERR = 1 too. -/
def Obligations.SrstResetsEveryRegister : Prop :=
  encode .srst = .command 0x0F#8 ∧
  ∀ s : State, exec .srst s = .next { s with block :=
    { status := 0x000#12, flen := 0#3, frame0 := 0x00#8, frame1 := 0x00#8, frame2 := 0x00#8, frame3 := 0x00#8,
      frame4 := 0x00#8, cfgbyte := 0x00#8, locidx := 0#3, conf := 0x000#9, pconf := 0x0000#14, raw := 0x00000#18,
      signed := 0#18, physDen := 0#19, physF := Config.physZero } }

/-- Rule R254: right after reset, every command that reads CONF or FLEN faults. -/
def Obligations.CommandsFaultAfterReset : Prop :=
  ∃ t1 t2 t3 t4 t5 t6 : State,
    exec .enc State.reset = .next t1 ∧ t1.block.status = 0x01A#12 ∧
    exec .loc State.reset = .next t2 ∧ t2.block.status = 0x03B#12 ∧
    exec .dsmp State.reset = .next t3 ∧ t3.block.status = 0x04A#12 ∧
    exec .tophys State.reset = .next t4 ∧ t4.block.status = 0x05A#12 ∧
    exec .frame State.reset = .next t5 ∧ t5.block.status = 0x06B#12 ∧
    exec .merge State.reset = .next t6 ∧ t6.block.status = 0x07A#12

/-! Host accesses. -/

/-- Rules R62, R121: a read of a mapped register other than CMD returns its pattern to the host and changes no register,
faulted or not. -/
def Obligations.RdReturnsRegister : Prop :=
  ∀ s : State,
    exec (.rd 0x01#8) s = .next (s.receive s.block.status.toNat) ∧
    exec (.rd 0x02#8) s = .next (s.receive s.block.flen.toNat) ∧
    exec (.rd 0x03#8) s = .next (s.receive s.block.frame0.toNat) ∧
    exec (.rd 0x04#8) s = .next (s.receive s.block.frame1.toNat) ∧
    exec (.rd 0x05#8) s = .next (s.receive s.block.frame2.toNat) ∧
    exec (.rd 0x06#8) s = .next (s.receive s.block.frame3.toNat) ∧
    exec (.rd 0x07#8) s = .next (s.receive s.block.frame4.toNat) ∧
    exec (.rd 0x08#8) s = .next (s.receive s.block.cfgbyte.toNat) ∧
    exec (.rd 0x09#8) s = .next (s.receive s.block.locidx.toNat) ∧
    exec (.rd 0x0A#8) s = .next (s.receive s.block.conf.toNat) ∧
    exec (.rd 0x0B#8) s = .next (s.receive s.block.pconf.toNat) ∧
    exec (.rd 0x0C#8) s = .next (s.receive s.block.raw.toNat) ∧
    exec (.rd 0x0D#8) s = .next (s.receive s.block.signed.toNat) ∧
    exec (.rd 0x0E#8) s = .next (s.receive s.block.physDen.toNat) ∧
    exec (.rd 0x0F#8) s = .next (s.receive s.block.physF.toNat)

/-- Rule R122: a read of CMD or of an unmapped address returns 0; it records BAD_ACCESS with the address in STATUS, and
only if ERR was 0. -/
def Obligations.BadReadReturnsZero : Prop :=
  ∀ (a : HostAddr) (s : State), a = 0x00#8 ∨ 0x10 ≤ a.toNat →
    (s.block.err = false →
      exec (.rd a) s = .next
        { block := { s.block with status := BitVec.ofNat 12 (a.toNat * 16 + 0x00E) },
          host := { s.host with received := 0 :: s.host.received } }) ∧
    (s.block.err = true →
      exec (.rd a) s = .next { s with host := { s.host with received := 0 :: s.host.received } })

/-- Rules R120, R121: every read completes, hands the host exactly one value, which is below 2^width of the register read
(0 from a bad address), and changes no register other than STATUS. -/
def Obligations.ReadValueFitsRegister : Prop :=
  ∀ (a : HostAddr) (s : State), ∃ (t : State) (v : Nat),
    exec (.rd a) s = .next t ∧ t.host = { s.host with received := v :: s.host.received } ∧
    t.block = { s.block with status := t.block.status } ∧
    (∀ r : RegName, regAt a = some r → v < 2 ^ regWidth r) ∧ (regAt a = none → v = 0)

/-- Rule R123: while ERR = 0, a write of a value that fits stores it in the addressed data register and changes nothing
else. -/
def Obligations.WrStoresDataRegister : Prop :=
  ∀ (s : State) (v : Nat), s.block.err = false →
    (v < 8 → exec (.wr 0x02#8 v) s = .next { s with block := { s.block with flen := BitVec.ofNat 3 v } }) ∧
    (v < 256 → exec (.wr 0x03#8 v) s = .next { s with block := { s.block with frame0 := BitVec.ofNat 8 v } }) ∧
    (v < 256 → exec (.wr 0x04#8 v) s = .next { s with block := { s.block with frame1 := BitVec.ofNat 8 v } }) ∧
    (v < 256 → exec (.wr 0x05#8 v) s = .next { s with block := { s.block with frame2 := BitVec.ofNat 8 v } }) ∧
    (v < 256 → exec (.wr 0x06#8 v) s = .next { s with block := { s.block with frame3 := BitVec.ofNat 8 v } }) ∧
    (v < 256 → exec (.wr 0x07#8 v) s = .next { s with block := { s.block with frame4 := BitVec.ofNat 8 v } }) ∧
    (v < 256 → exec (.wr 0x08#8 v) s = .next { s with block := { s.block with cfgbyte := BitVec.ofNat 8 v } }) ∧
    (v < 512 → exec (.wr 0x0A#8 v) s = .next { s with block := { s.block with conf := BitVec.ofNat 9 v } }) ∧
    (v < 16384 → exec (.wr 0x0B#8 v) s = .next { s with block := { s.block with pconf := BitVec.ofNat 14 v } }) ∧
    (v < 262144 → exec (.wr 0x0C#8 v) s = .next { s with block := { s.block with raw := BitVec.ofNat 18 v } })

/-- Rule R124: while ERR = 0, a write to an unmapped address, to a read-only register, or of a value too wide for its
register raises BAD_ACCESS with the address and stores nothing. -/
def Obligations.BadWriteFaults : Prop :=
  ∀ (a : HostAddr) (v : Nat) (s : State), s.block.err = false →
    (0x10 ≤ a.toNat ∨
      (a = 0x01#8 ∨ a = 0x09#8 ∨ a = 0x0D#8 ∨ a = 0x0E#8 ∨ a = 0x0F#8) ∨
      ((a = 0x00#8 ∨ (0x03 ≤ a.toNat ∧ a.toNat ≤ 0x08)) ∧ 256 ≤ v) ∨
      (a = 0x02#8 ∧ 8 ≤ v) ∨ (a = 0x0A#8 ∧ 512 ≤ v) ∨ (a = 0x0B#8 ∧ 16384 ≤ v) ∨ (a = 0x0C#8 ∧ 262144 ≤ v)) →
    exec (.wr a v) s =
      .next { s with block := { s.block with status := BitVec.ofNat 12 (a.toNat * 16 + 0x00E) } }

/-- Rule R125: while ERR = 0, a write to CMD of a command's word is that command, and a write of any other word below
0x100 raises ILLEGAL_CMD with the word. -/
def Obligations.WrCmdRunsCommand : Prop :=
  ∀ s : State, s.block.err = false →
    exec (.wr 0x00#8 0x00) s = exec .nop s ∧ exec (.wr 0x00#8 0x01) s = exec .enc s ∧
    exec (.wr 0x00#8 0x02) s = exec .dcfg s ∧ exec (.wr 0x00#8 0x03) s = exec .loc s ∧
    exec (.wr 0x00#8 0x04) s = exec .dsmp s ∧ exec (.wr 0x00#8 0x05) s = exec .tophys s ∧
    exec (.wr 0x00#8 0x06) s = exec .frame s ∧ exec (.wr 0x00#8 0x07) s = exec .merge s ∧
    exec (.wr 0x00#8 0x0F) s = exec .srst s ∧
    ∀ v : Nat, (0x08 ≤ v ∧ v ≤ 0x0E) ∨ (0x10 ≤ v ∧ v < 0x100) →
      exec (.wr 0x00#8 v) s = .next { s with block := { s.block with status := BitVec.ofNat 12 (v * 16 + 0x009) } }

/-- Rules R99, R227: a reserved or illegal command word, written to CMD in either format, raises ILLEGAL_CMD with the
word, and no other register changes; while ERR = 1 it is ignored (rule R126). -/
def Obligations.IllegalCommandWordFaults : Prop :=
  ∀ (s : State) (word : Byte) (rest : List HostInput),
    (s.host.pending = .access (.command word) :: rest ∨
      s.host.pending = .access (.transaction 0x100#9 (some word.toNat)) :: rest) →
    (0x08 ≤ word.toNat ∧ word.toNat ≤ 0x0E) ∨ 0x10 ≤ word.toNat →
    (s.block.err = false →
      step s = .next
        { block := { s.block with status := BitVec.ofNat 12 (word.toNat * 16 + 0x009) },
          host := { s.host with pending := rest } }) ∧
    (s.block.err = true → step s = .next { s with host := { s.host with pending := rest } })

/-- Rule R126: while ERR = 1 every write and every command is ignored but SRST, which is taken as a command and as
`WR CMD, 0x0F`; reads still work, and a bad read returns 0 and records nothing. -/
def Obligations.FaultedBlockIgnoresWrites : Prop :=
  ∀ s : State, s.block.err = true →
    (∀ (a : HostAddr) (v : Nat), ¬(a = 0x00#8 ∧ v = 0x0F) → exec (.wr a v) s = .next s) ∧
    exec .nop s = .next s ∧ exec .enc s = .next s ∧ exec .dcfg s = .next s ∧ exec .loc s = .next s ∧
    exec .dsmp s = .next s ∧ exec .tophys s = .next s ∧ exec .frame s = .next s ∧ exec .merge s = .next s ∧
    exec (.wr 0x00#8 0x0F) s = .next { s with block := State.reset.block } ∧
    exec .srst s = .next { s with block := State.reset.block } ∧
    (∀ (a : HostAddr) (r : RegName), regAt a = some r → r ≠ .cmd →
      exec (.rd a) s = .next (s.receive (s.block.readReg r))) ∧
    (∀ a : HostAddr, a = 0x00#8 ∨ 0x10 ≤ a.toNat → exec (.rd a) s = .next (s.receive 0))

/-- Rule R37: every value that fits a writable data register is stored and reads back unchanged. -/
def Obligations.WrittenValueReadsBack : Prop :=
  ∀ (s : State) (a : HostAddr) (r : RegName) (v : Nat), s.block.err = false →
    regAt a = some r → r ≠ .cmd → regWritable r = true → v < 2 ^ regWidth r →
    ∃ t : State, exec (.wr a v) s = .next t ∧
      exec (.rd a) t = .next { t with host := { t.host with received := v :: s.host.received } }

/-! The configuration-byte codec. -/

/-- Rule R140: ENC packs CONF into CFGBYTE when CONF.CHANNEL is 1 to 4, and raises INVALID_ARG otherwise. -/
def Obligations.EncPacksConfiguration : Prop :=
  encode .enc = .command 0x01#8 ∧
  ∀ s : State, s.block.err = false →
    (1 ≤ s.block.conf.toNat / 32 % 8 ∧ s.block.conf.toNat / 32 % 8 ≤ 4 →
      exec .enc s = .next { s with block := { s.block with
        cfgbyte := BitVec.ofNat 8
          (s.block.conf.toNat / 256 * 128 + (s.block.conf.toNat / 32 % 8 - 1) * 32 +
            s.block.conf.toNat / 16 % 2 * 16 + s.block.conf.toNat / 4 % 4 * 4 + s.block.conf.toNat % 4) } }) ∧
    (¬(1 ≤ s.block.conf.toNat / 32 % 8 ∧ s.block.conf.toNat / 32 % 8 ≤ 4) →
      exec .enc s = .next { s with block := { s.block with status := 0x01A#12 } })

/-- Rule R141: DCFG unpacks CFGBYTE into CONF, for every byte. -/
def Obligations.DcfgUnpacksByte : Prop :=
  encode .dcfg = .command 0x02#8 ∧
  ∀ s : State, s.block.err = false →
    exec .dcfg s = .next { s with block := { s.block with
      conf := BitVec.ofNat 9
        (s.block.cfgbyte.toNat / 128 * 256 + (s.block.cfgbyte.toNat / 32 % 4 + 1) * 32 +
          s.block.cfgbyte.toNat / 16 % 2 * 16 + s.block.cfgbyte.toNat / 4 % 4 * 4 +
          s.block.cfgbyte.toNat % 4) } }

/-- Rule R142: MERGE copies each set field of PCONF into CONF and keeps the others; it faults on a base, or on a set
channel, that is out of range. -/
def Obligations.MergeOverlaysSetFields : Prop :=
  encode .merge = .command 0x07#8 ∧
  ∀ (s : State) (c p : Nat), s.block.err = false → c = s.block.conf.toNat → p = s.block.pconf.toNat →
    (¬(1 ≤ c / 32 % 8 ∧ c / 32 % 8 ≤ 4) ∨ (p / 2048 % 2 = 1 ∧ ¬(1 ≤ p / 256 % 8 ∧ p / 256 % 8 ≤ 4)) →
      exec .merge s = .next { s with block := { s.block with status := 0x07A#12 } }) ∧
    ((1 ≤ c / 32 % 8 ∧ c / 32 % 8 ≤ 4) ∧ (p / 2048 % 2 = 1 → 1 ≤ p / 256 % 8 ∧ p / 256 % 8 ≤ 4) →
      exec .merge s = .next { s with block := { s.block with
        conf := BitVec.ofNat 9 ((if p / 8192 % 2 = 1 then p / 4096 % 2 else c / 256) * 256 +
          (if p / 2048 % 2 = 1 then p / 256 % 8 else c / 32 % 8) * 32 +
          (if p / 128 % 2 = 1 then p / 64 % 2 else c / 16 % 2) * 16 +
          (if p / 32 % 2 = 1 then p / 8 % 4 else c / 4 % 4) * 4 +
          (if p / 4 % 2 = 1 then p % 4 else c % 4)) } })

/-- Rule R143: for every valid CONF, ENC and then DCFG leave CONF as it was, READY included. -/
def Obligations.EncThenDcfgKeepsConf : Prop :=
  ∀ s : State, s.block.err = false → validConf s.block.conf = true →
    ∃ t u : State, exec .enc s = .next t ∧ exec .dcfg t = .next u ∧ u.block.conf = s.block.conf ∧ u = t

/-- Rule R144: for every byte, DCFG and then ENC leave CFGBYTE as it was, and ENC takes different valid configurations to
different bytes: it is a bijection, and DCFG is its inverse. -/
def Obligations.DcfgThenEncKeepsByte : Prop :=
  (∀ s : State, s.block.err = false →
    ∃ t u : State, exec .dcfg s = .next t ∧ validConf t.block.conf = true ∧ exec .enc t = .next u ∧
      u.block.cfgbyte = s.block.cfgbyte) ∧
  (∀ s1 s2 t1 t2 : State, s1.block.err = false → s2.block.err = false →
    validConf s1.block.conf = true → validConf s2.block.conf = true →
    exec .enc s1 = .next t1 → exec .enc s2 = .next t2 → t1.block.cfgbyte = t2.block.cfgbyte →
    s1.block.conf = s2.block.conf)

/-- Rule R142: two MERGEs in a row leave what one leaves, and the result of one that does not fault is a configuration. -/
def Obligations.MergeTwiceIsOnce : Prop :=
  ∀ s t : State, s.block.err = false → exec .merge s = .next t → t.block.err = false →
    validConf t.block.conf = true ∧ exec .merge t = .next t

/-! The sample-frame deserializer. -/

/-- Rules R160, R162, R163: LOC finds the configuration byte before the marker, the pair at the end of the frame first, or
raises INVALID_ARG, FRAME_SHORT or FRAME_NO_MARKER. -/
def Obligations.LocFindsMarkedByte : Prop :=
  encode .loc = .command 0x03#8 ∧
  ∀ (s : State) (n : Nat), s.block.err = false → n = s.block.flen.toNat →
    (5 < n → exec .loc s = .next { s with block := { s.block with status := 0x03A#12 } }) ∧
    (n < 3 → exec .loc s = .next { s with block := { s.block with status := 0x03B#12 } }) ∧
    (n = 5 ∧ s.block.frame4 = s.block.frame3 ||| 0x80#8 →
      exec .loc s = .next { s with block := { s.block with cfgbyte := s.block.frame3, locidx := 3#3 } }) ∧
    ((n = 4 ∨ n = 5 ∧ s.block.frame4 ≠ s.block.frame3 ||| 0x80#8) ∧ s.block.frame3 = s.block.frame2 ||| 0x80#8 →
      exec .loc s = .next { s with block := { s.block with cfgbyte := s.block.frame2, locidx := 2#3 } }) ∧
    (n = 3 ∨ (n = 4 ∨ n = 5 ∧ s.block.frame4 ≠ s.block.frame3 ||| 0x80#8) ∧
        s.block.frame3 ≠ s.block.frame2 ||| 0x80#8 →
      exec .loc s = .next { s with block := { s.block with status := 0x03C#12 } })

/-- Rules R161, R164, R170: DSMP assembles the payload, 18 of its 24 bits for Bits18 and all of its 16 bits otherwise, or
raises INVALID_ARG (CONF before FLEN) or FRAME_SHORT. -/
def Obligations.DsmpAssemblesSample : Prop :=
  encode .dsmp = .command 0x04#8 ∧
  ∀ (s : State) (n c : Nat), s.block.err = false → n = s.block.flen.toNat → c = s.block.conf.toNat →
    (¬(1 ≤ c / 32 % 8 ∧ c / 32 % 8 ≤ 4) ∨ 5 < n →
      exec .dsmp s = .next { s with block := { s.block with status := 0x04A#12 } }) ∧
    ((1 ≤ c / 32 % 8 ∧ c / 32 % 8 ≤ 4) ∧ (n < 2 ∨ n < 3 ∧ c / 4 % 4 = 3) →
      exec .dsmp s = .next { s with block := { s.block with status := 0x04B#12 } }) ∧
    ((1 ≤ c / 32 % 8 ∧ c / 32 % 8 ≤ 4) ∧ c / 4 % 4 = 3 ∧ 3 ≤ n ∧ n ≤ 5 →
      exec .dsmp s = .next { s with block := { s.block with
        raw := BitVec.ofNat 18 ((s.block.frame0.toNat * 65536 + s.block.frame1.toNat * 256 + s.block.frame2.toNat) % 262144) } }) ∧
    ((1 ≤ c / 32 % 8 ∧ c / 32 % 8 ≤ 4) ∧ c / 4 % 4 ≠ 3 ∧ 2 ≤ n ∧ n ≤ 5 →
      exec .dsmp s = .next { s with block := { s.block with
        raw := BitVec.ofNat 18 (s.block.frame0.toNat * 256 + s.block.frame1.toNat) } })

/-- Rule R165: FRAME takes the configuration byte `b` at index `j` (index 2 of a 3-byte frame, what the scan finds
otherwise), checks that its own payload does not reach it, and writes CFGBYTE, LOCIDX, CONF and RAW; or it raises
INVALID_ARG, FRAME_SHORT, FRAME_NO_MARKER or FRAME_LAYOUT. -/
def Obligations.FrameDecodesWholeFrame : Prop :=
  encode .frame = .command 0x06#8 ∧
  ∀ (s : State) (n : Nat), s.block.err = false → n = s.block.flen.toNat →
    (5 < n → exec .frame s = .next { s with block := { s.block with status := 0x06A#12 } }) ∧
    (n < 3 → exec .frame s = .next { s with block := { s.block with status := 0x06B#12 } }) ∧
    ((n = 4 ∨ n = 5 ∧ s.block.frame4 ≠ s.block.frame3 ||| 0x80#8) ∧
        s.block.frame3 ≠ s.block.frame2 ||| 0x80#8 →
      exec .frame s = .next { s with block := { s.block with status := 0x06C#12 } }) ∧
    ∀ (j : Nat) (b : Byte),
      (n = 3 ∧ j = 2 ∧ b = s.block.frame2) ∨
      (n = 5 ∧ s.block.frame4 = s.block.frame3 ||| 0x80#8 ∧ j = 3 ∧ b = s.block.frame3) ∨
      ((n = 4 ∨ n = 5 ∧ s.block.frame4 ≠ s.block.frame3 ||| 0x80#8) ∧
        s.block.frame3 = s.block.frame2 ||| 0x80#8 ∧ j = 2 ∧ b = s.block.frame2) →
      (b.toNat / 4 % 4 = 3 ∧ j = 2 →
        exec .frame s = .next { s with block := { s.block with status := 0x06D#12 } }) ∧
      (¬(b.toNat / 4 % 4 = 3 ∧ j = 2) →
        exec .frame s = .next { s with block := { s.block with
          cfgbyte := b
          locidx := BitVec.ofNat 3 j
          conf := BitVec.ofNat 9 (b.toNat / 128 * 256 + (b.toNat / 32 % 4 + 1) * 32 + b.toNat % 32)
          raw := BitVec.ofNat 18
            (if b.toNat / 4 % 4 = 3 then
              (s.block.frame0.toNat * 65536 + s.block.frame1.toNat * 256 + s.block.frame2.toNat) % 262144
            else s.block.frame0.toNat * 256 + s.block.frame1.toNat) } })

/-- Rule R171: on success FRAME leaves what LOC (or, for three bytes, taking FRAME2 at index 2), DCFG and DSMP leave one
after the other; on a fault it writes STATUS alone. -/
def Obligations.FrameRefinesLocDcfgDsmp : Prop :=
  ∀ s t : State, s.block.err = false → exec .frame s = .next t →
    (t.block.err = false →
      ∃ t1 t2 : State,
        (if s.block.flen = 3#3 then
          t1 = { s with block := { s.block with cfgbyte := s.block.frame2, locidx := 2#3 } }
        else exec .loc s = .next t1) ∧
        exec .dcfg t1 = .next t2 ∧ exec .dsmp t2 = .next t) ∧
    (t.block.err = true → t = { s with block := { s.block with status := t.block.status } })

/-- Rule R165: FRAME ignores the old CONF, PCONF and RAW: whatever they hold, it raises the same fault, or leaves the same
registers but for PCONF, which it does not write. -/
def Obligations.FrameIgnoresOldConfiguration : Prop :=
  ∀ (s t : State) (conf' : BitVec 9) (pconf' : BitVec 14) (raw' : BitVec 18), s.block.err = false →
    exec .frame s = .next t →
    ∃ t' : State,
      exec .frame { s with block := { s.block with conf := conf', pconf := pconf', raw := raw' } } = .next t' ∧
      t'.block.status = t.block.status ∧
      (t.block.err = false → t' = { t with block := { t.block with pconf := pconf' } })

/-- Rule R27: no command reads FRAME[FLEN] to FRAME4: with other bytes there, every command leaves the same state but for
those bytes, and SRST, which resets them too, leaves the very same state. -/
def Obligations.BytesBeyondFlenAreNotRead : Prop :=
  ∀ (s s' : State) (g : List Byte), s' = { s with block := s.block.fillBeyond s.block.flen.toNat g } →
    (∀ (t : State) (i : Instr),
      i = .nop ∨ i = .enc ∨ i = .dcfg ∨ i = .loc ∨ i = .dsmp ∨ i = .tophys ∨ i = .frame ∨ i = .merge →
      exec i s = .next t → exec i s' = .next { t with block := t.block.fillBeyond s.block.flen.toNat g }) ∧
    exec .srst s' = exec .srst s

/-- Rule R168: a frame that ends in two copies of the marker is found at index 3, and the marker is taken as the
configuration byte; for a resolution below 18 bits FRAME then accepts with READY = 1 and the right RAW. -/
def Obligations.MarkerTakenAsConfigByte : Prop :=
  ∀ (s : State) (m : Byte), s.block.err = false → s.block.flen = 5#3 → m = s.block.frame2 ||| 0x80#8 →
    s.block.frame3 = m → s.block.frame4 = m →
    exec .loc s = .next { s with block := { s.block with cfgbyte := m, locidx := 3#3 } } ∧
    (s.block.frame2.toNat / 4 % 4 ≠ 3 →
      exec .frame s = .next { s with block := { s.block with
        cfgbyte := m
        locidx := 3#3
        conf := BitVec.ofNat 9 (256 + (s.block.frame2.toNat / 32 % 4 + 1) * 32 + s.block.frame2.toNat % 32)
        raw := BitVec.ofNat 18 (s.block.frame0.toNat * 256 + s.block.frame1.toNat) } })

/-- Rule R169: on `[d0, d1, cfg, n, cfg | 0x80]` LOC raises FRAME_NO_MARKER, unless the noise byte n equals cfg in its low
7 bits, and then it returns n at index 3. It never returns index 2. -/
def Obligations.NoiseByteHidesConfigByte : Prop :=
  ∀ s : State, s.block.err = false → s.block.flen = 5#3 → s.block.frame4 = s.block.frame2 ||| 0x80#8 →
    (s.block.frame3.toNat % 128 ≠ s.block.frame2.toNat % 128 →
      exec .loc s = .next { s with block := { s.block with status := 0x03C#12 } }) ∧
    (s.block.frame3.toNat % 128 = s.block.frame2.toNat % 128 →
      exec .loc s = .next { s with block := { s.block with cfgbyte := s.block.frame3, locidx := 3#3 } })

/-- Rules R68, R95, R78: a frame that a device configured by `c` returns (payload, configuration byte, and the marker where
the mode is self-identifying, as it must be at 18 bits) has a form of R68; presented in the frame buffer, FRAME
decodes it without a fault to `c`, the place of `c`, its fields and the big-endian payload. -/
def Obligations.DeviceFramesDecode : Prop :=
  ∀ (s : State) (c : Byte) (data : List Byte) (selfIdentifying : Bool), s.block.err = false →
    data.length = (if c.toNat / 4 % 4 = 3 then 3 else 2) → (c.toNat / 4 % 4 = 3 → selfIdentifying = true) →
    s.block.presents (deviceFrame c data selfIdentifying) →
    readFrame c (deviceFrame c data selfIdentifying) = true ∧
    exec .frame s = .next { s with block := { s.block with
      cfgbyte := c
      locidx := BitVec.ofNat 3 data.length
      conf := BitVec.ofNat 9 (c.toNat / 128 * 256 + (c.toNat / 32 % 4 + 1) * 32 + c.toNat % 32)
      raw := BitVec.ofNat 18 (data.foldl (fun n x => n * 256 + x.toNat) 0) } }

/-- Rule R78: the writes of FRAMEi for a frame of at most 5 bytes, and of its length to FLEN, go on in every order; they leave
the frame buffer presenting that frame, and change no register but the ones they name. -/
def Obligations.FrameWritesPresentFrame : Prop :=
  ∀ (s : State) (frame : List Byte) (lines : List Instr), s.block.err = false → frame.length ≤ 5 →
    lines.Perm (expandPseudo (.ldframe frame)) →
    ∃ t : State, execAll lines s = .next t ∧ t.block.presents frame ∧
      (∀ i : Nat, frame.length ≤ i → t.block.frameAt i = s.block.frameAt i) ∧
      t = { s with block := { s.block with
        flen := t.block.flen, frame0 := t.block.frame0, frame1 := t.block.frame1, frame2 := t.block.frame2,
        frame3 := t.block.frame3, frame4 := t.block.frame4 } }

/-- Rule R68: a read frame has 3 bytes at 12, 14 or 16 bits, or 4 or 5 bytes of which the last is the marker `c | 0x80`;
no other list of bytes is one. That the marker is the one of the configuration byte in effect is DEDUCED from rule R94
(log entry 10). -/
def Obligations.ReadFrameForms : Prop :=
  ∀ (c : Byte) (frame : List Byte),
    readFrame c frame = true ↔
      (frame.length = 3 ∧ c.toNat / 4 % 4 ≠ 3) ∨
      ∃ front : List Byte, frame = front ++ [c ||| 0x80#8] ∧ (front.length = 3 ∨ front.length = 4)

/-! Sign interpretation and the multiplier. -/

/-- Rules R193, R195, R197: TOPHYS reads RAW as two's complement over 16 or 18 bits, and writes the count, the denominator
and the rounded exact value; it raises INVALID_ARG on an invalid CONF or a RAW too wide for a 16-bit resolution. -/
def Obligations.TophysConvertsSample : Prop :=
  encode .tophys = .command 0x05#8 ∧
  ∀ (s : State) (c raw w lsb mul : Nat) (count : Int), s.block.err = false →
    c = s.block.conf.toNat → raw = s.block.raw.toNat →
    w = (if c / 4 % 4 = 3 then 18 else 16) →
    lsb = (if c / 4 % 4 = 0 then 1000 else if c / 4 % 4 = 1 then 4000 else if c / 4 % 4 = 2 then 16000 else 64000) →
    mul = (if c % 4 = 0 then 1 else if c % 4 = 1 then 2 else if c % 4 = 2 then 4 else 8) →
    count = (if 2 ^ (w - 1) ≤ raw then (raw : Int) - 2 ^ w else (raw : Int)) →
    (¬(1 ≤ c / 32 % 8 ∧ c / 32 % 8 ≤ 4) ∨ 2 ^ w ≤ raw →
      exec .tophys s = .next { s with block := { s.block with status := 0x05A#12 } }) ∧
    ((1 ≤ c / 32 % 8 ∧ c / 32 % 8 ≤ 4) ∧ raw < 2 ^ w →
      exec .tophys s = .next { s with block := { s.block with
        signed := BitVec.ofInt 18 count
        physDen := BitVec.ofNat 19 (lsb * mul)
        physF := Config.physRound ((count : Rat) / ((lsb * mul : Nat) : Rat)) } })

/-- Rule R194: `signedOf` is the two's-complement reading over the nominal width, and a bijection from the raw values of
that width onto the signed range. -/
def Obligations.SignedOfIsTwosComplement : Prop :=
  ∀ (res : Resolution) (w : Nat), w = (if res = .bits18 then 18 else 16) →
    (∀ raw : Nat, raw < 2 ^ w →
      signedOf raw res = if raw.testBit (w - 1) then (raw : Int) - 2 ^ w else (raw : Int)) ∧
    (∀ z : Int, -2 ^ (w - 1) ≤ z → z < 2 ^ (w - 1) → ∃! raw : Nat, raw < 2 ^ w ∧ signedOf raw res = z)

/-- Rule R197: the sixteen denominators, of which a TOPHYS that does not fault writes the one that CONF's resolution and
gain select; each fits PHYS_DEN. -/
def Obligations.DenominatorTable : Prop :=
  [Resolution.bits12, .bits14, .bits16, .bits18].map
      (fun res => [Gain.x1, .x2, .x4, .x8].map (fun gain => physDenominator res gain)) =
    [[1000, 2000, 4000, 8000], [4000, 8000, 16000, 32000], [16000, 32000, 64000, 128000],
      [64000, 128000, 256000, 512000]] ∧
  ∀ s t : State, s.block.err = false → exec .tophys s = .next t → t.block.err = false →
    t.block.physDen.toNat = physDenominator (confResolution s.block.conf) (confGainOf s.block.conf)

/-- Rules R35, R196 (its clauses (b) and (c) as log entry 2 reads them): after a TOPHYS that does not fault, PHYS_F lies
within PHYS_EPS of the exact value SIGNED / PHYS_DEN and has its sign, is +0 when that value is 0, and depends on
that value alone. -/
def Obligations.PhysFApproximatesExactValue : Prop :=
  ∀ s t : State, s.block.err = false → exec .tophys s = .next t → t.block.err = false →
    ∃ q : Rat, t.block.physValue = some q ∧
      |Config.physValue t.block.physF - q| ≤ Config.physEps * |q| ∧
      (0 < q → 0 < Config.physValue t.block.physF) ∧ (q < 0 → Config.physValue t.block.physF < 0) ∧
      (q = 0 → t.block.physF = Config.physZero) ∧
      ∀ s' t' : State, s'.block.err = false → exec .tophys s' = .next t' → t'.block.err = false →
        t'.block.physValue = some q → t'.block.physF = t.block.physF

/-- Rule R198: RAW = 0 gives SIGNED = 0, the exact value 0 and the encoding of +0, for every resolution and gain. -/
def Obligations.ZeroSampleGivesZero : Prop :=
  ∀ s : State, s.block.err = false → validConf s.block.conf = true → s.block.raw = 0#18 →
    ∃ t : State, exec .tophys s = .next t ∧ t.block.err = false ∧ t.block.signed = 0#18 ∧
      t.block.physValue = some 0 ∧ t.block.physF = Config.physZero

/-- Rule R199: the largest magnitude of the exact value, by resolution and gain, which the most negative sample attains. -/
def Obligations.ExactValueRange : Prop :=
  ∀ (s t : State) (q bound : Rat) (c w : Nat), s.block.err = false → exec .tophys s = .next t →
    t.block.err = false → t.block.physValue = some q → c = s.block.conf.toNat →
    w = (if c / 4 % 4 = 3 then 18 else 16) →
    bound = (if c / 4 % 4 = 0 then 32768 / 1000 else if c / 4 % 4 = 1 then 8192 / 1000 else 2048 / 1000) /
      (if c % 4 = 0 then 1 else if c % 4 = 1 then 2 else if c % 4 = 2 then 4 else 8) →
    |q| ≤ bound ∧ (s.block.raw.toNat = 2 ^ (w - 1) → q = -bound)

/-- Rule R200: for one resolution and gain the exact value rises strictly with the count, one step of the count by one
over the denominator. -/
def Obligations.ExactValueIsMonotonic : Prop :=
  ∀ (s1 s2 t1 t2 : State) (q1 q2 : Rat), s1.block.err = false → s2.block.err = false →
    s1.block.conf.toNat % 16 = s2.block.conf.toNat % 16 →
    exec .tophys s1 = .next t1 → exec .tophys s2 = .next t2 → t1.block.err = false → t2.block.err = false →
    t1.block.physValue = some q1 → t2.block.physValue = some q2 →
    (t1.block.signed.toInt < t2.block.signed.toInt → q1 < q2) ∧
    (t2.block.signed.toInt = t1.block.signed.toInt + 1 → q2 - q1 = 1 / (t1.block.physDen.toNat : Rat))

/-- Rule R195: TOPHYS ignores CONF.MODE and CONF.READY, and CONF.CHANNEL beyond the check that it is 1 to 4: with the same
RAW, resolution and gain it writes the same results. -/
def Obligations.TophysIgnoresChannelModeReady : Prop :=
  ∀ (s t : State) (conf' : BitVec 9), s.block.err = false → exec .tophys s = .next t →
    validConf s.block.conf = true → validConf conf' = true → s.block.conf.toNat % 16 = conf'.toNat % 16 →
    exec .tophys { s with block := { s.block with conf := conf' } } =
      .next { t with block := { t.block with conf := conf' } }

/-! The whole machine. -/

/-- Rule R226: taking a fault while ERR = 0 writes CAUSE, FINFO and ERR = 1, and nothing else; while ERR = 1 it writes
nothing (rule R230). -/
def Obligations.FaultEntryWritesStatus : Prop :=
  ∀ (b : Block) (r : FaultReport) (code : Nat),
    code = (match r.cause with
      | .illegalCmd => 1 | .invalidArg => 2 | .frameShort => 3 | .frameNoMarker => 4 | .frameLayout => 5
      | .badAccess => 6) →
    (b.err = false → b.raiseFault r = { b with status := BitVec.ofNat 12 (r.info.toNat * 16 + 8 + code) }) ∧
    (b.err = true → b.raiseFault r = b)

/-- Rules R121 to R126: every instruction, on every operand and in every state, goes on to a next state. -/
def Obligations.EveryInstructionCompletes : Prop :=
  ∀ (i : Instr) (s : State), ∃ t : State, exec i s = .next t

/-- Rules R39, R123: the registers that each instruction may write, besides STATUS on a fault; all others, and the host's
side but for the value of a read, stay. -/
def Obligations.InstructionsWriteOnlyTheirRegisters : Prop :=
  ∀ (s t : State) (b : Block), b = t.block →
    (exec .nop s = .next t → t = s) ∧
    (exec .enc s = .next t →
      t = { s with block := { s.block with status := b.status, cfgbyte := b.cfgbyte } }) ∧
    (exec .dcfg s = .next t → t = { s with block := { s.block with conf := b.conf } }) ∧
    (exec .loc s = .next t →
      t = { s with block := { s.block with status := b.status, cfgbyte := b.cfgbyte, locidx := b.locidx } }) ∧
    (exec .dsmp s = .next t → t = { s with block := { s.block with status := b.status, raw := b.raw } }) ∧
    (exec .tophys s = .next t →
      t = { s with block := { s.block with
        status := b.status, signed := b.signed, physDen := b.physDen, physF := b.physF } }) ∧
    (exec .frame s = .next t →
      t = { s with block := { s.block with
        status := b.status, cfgbyte := b.cfgbyte, locidx := b.locidx, conf := b.conf, raw := b.raw } }) ∧
    (exec .merge s = .next t → t = { s with block := { s.block with status := b.status, conf := b.conf } }) ∧
    (∀ a : HostAddr, exec (.rd a) s = .next t →
      t = { block := { s.block with status := b.status }, host := { s.host with received := t.host.received } }) ∧
    (∀ (a : HostAddr) (v : Nat), a ≠ 0x00#8 → exec (.wr a v) s = .next t →
      t = { s with block := { s.block with
        status := b.status
        flen := if a = 0x02#8 then b.flen else s.block.flen
        frame0 := if a = 0x03#8 then b.frame0 else s.block.frame0
        frame1 := if a = 0x04#8 then b.frame1 else s.block.frame1
        frame2 := if a = 0x05#8 then b.frame2 else s.block.frame2
        frame3 := if a = 0x06#8 then b.frame3 else s.block.frame3
        frame4 := if a = 0x07#8 then b.frame4 else s.block.frame4
        cfgbyte := if a = 0x08#8 then b.cfgbyte else s.block.cfgbyte
        conf := if a = 0x0A#8 then b.conf else s.block.conf
        pconf := if a = 0x0B#8 then b.pconf else s.block.pconf
        raw := if a = 0x0C#8 then b.raw else s.block.raw } })

/-- Rules R226, R232: faults are precise. An instruction that takes ERR from 0 to 1 leaves every register but STATUS as it
was, and STATUS holds ERR = 1 and one legal cause with its information. -/
def Obligations.FaultsArePrecise : Prop :=
  ∀ (i : Instr) (s t : State), s.block.err = false → exec i s = .next t → t.block.err = true →
    ∃ r : FaultReport, r.legal = true ∧
      t.block = { s.block with status := BitVec.ofNat 12 (r.info.toNat * 16 + 8 + r.cause.code.toNat) }

/-- Rule R24: only a fault writes STATUS, and only reset clears it: after any step STATUS is as before, or ERR went from 0
to 1, or the whole block is at its reset values. -/
def Obligations.OnlyFaultsWriteStatus : Prop :=
  ∀ s t : State, step s = .next t →
    t.block.status = s.block.status ∨ (s.block.err = false ∧ t.block.err = true) ∨
    t.block = State.reset.block

/-- Rules R230, R231: in the faulted state, the RST input, the SRST command word and `WR CMD, 0x0F` put every register of
the block to its reset value; a step on any other input, or on none, that goes on leaves every register of the block
as it was, so the first fault stays in STATUS. -/
def Obligations.FirstFaultStaysUntilReset : Prop :=
  ∀ s : State, s.block.err = true →
    (∀ (input : HostInput) (rest : List HostInput), s.host.pending = input :: rest →
      input = .rst ∨ input = .access (.command 0x0F#8) ∨ input = .access (.transaction 0x100#9 (some 0x0F)) →
      step s = .next { block := State.reset.block, host := { s.host with pending := rest } }) ∧
    (∀ t : State,
      (∀ (input : HostInput) (rest : List HostInput), s.host.pending = input :: rest →
        input ≠ .rst ∧ input ≠ .access (.command 0x0F#8) ∧
          input ≠ .access (.transaction 0x100#9 (some 0x0F))) →
      step s = .next t → t.block = s.block)

/-- Rules R24, R31, R34 to R36, R221: every step keeps the invariant of the block's registers: STATUS is 0 or one legal
fault, LOCIDX is 0, 2 or 3, and the conversion registers hold reset or one consistent result. -/
def Obligations.StepKeepsInvariant : Prop :=
  ∀ s t : State, s.Inv → step s = .next t → t.Inv

/-- Rule R40: the invariant holds right after reset. -/
def Obligations.ResetMeetsInvariant : Prop := State.reset.Inv

/-- Rule R24: in every state that meets the invariant, ERR = 1 exactly when CAUSE is not 0, and STATUS is 0 while ERR = 0. -/
def Obligations.ErrExactlyWhenCause : Prop :=
  ∀ s : State, s.Inv →
    (s.block.status.toNat / 8 % 2 = 1 ↔ s.block.status.toNat % 8 ≠ 0) ∧ s.block.status.toNat % 8 ≠ 7 ∧
    (s.block.err = false → s.block.status = 0)
end

