-- ==== Sys2Proof/Laws/Bits.lean ====
section
/-! SUPPORT. The bit fields as arithmetic on numbers: what each field function and each concatenation of the model is, over
`toNat`. Later proofs use these and `omega`, and never unfold a bit-vector operation. -/

namespace Sys2Proof
namespace Machine

/-- Concatenation as arithmetic. -/
theorem toNat_append_add {m n : Nat} (x : BitVec m) (y : BitVec n) :
    (x ++ y).toNat = x.toNat * 2 ^ n + y.toNat := by
  rw [BitVec.toNat_append, ← Nat.shiftLeft_add_eq_or_of_lt y.isLt, Nat.shiftLeft_eq]

/-- A field as arithmetic. -/
theorem toNat_field {n : Nat} (x : BitVec n) (lo len : Nat) :
    (x.extractLsb' lo len).toNat = x.toNat / 2 ^ lo % 2 ^ len := by
  rw [BitVec.extractLsb'_toNat, Nat.shiftRight_eq_div_pow]

/-- A bit as arithmetic. -/
theorem getLsbD_iff {n : Nat} (x : BitVec n) (i : Nat) : x.getLsbD i = true ↔ x.toNat / 2 ^ i % 2 = 1 := by
  rw [← BitVec.testBit_toNat, Nat.testBit_eq_decide_div_mod_eq, decide_eq_true_iff]

/-! CONF. -/

@[simp] theorem confGain_toNat (c : BitVec 9) : (confGain c).toNat = c.toNat % 4 := by
  simp [confGain]

@[simp] theorem confRes_toNat (c : BitVec 9) : (confRes c).toNat = c.toNat / 4 % 4 :=
  toNat_field c 2 2

@[simp] theorem confMode_toNat (c : BitVec 9) : (confMode c).toNat = c.toNat / 16 % 2 :=
  toNat_field c 4 1

@[simp] theorem confChannel_toNat (c : BitVec 9) : (confChannel c).toNat = c.toNat / 32 % 8 :=
  toNat_field c 5 3

@[simp] theorem confReady_toNat (c : BitVec 9) : (confReady c).toNat = c.toNat / 256 := by
  have := c.isLt
  rw [confReady, toNat_field]
  omega

theorem packConf_toNat (ready : BitVec 1) (channel : BitVec 3) (mode : BitVec 1) (res gain : BitVec 2) :
    (packConf ready channel mode res gain).toNat =
      ready.toNat * 256 + channel.toNat * 32 + mode.toNat * 16 + res.toNat * 4 + gain.toNat := by
  simp only [packConf, toNat_append_add]
  omega

/-! Each field of a packed CONF value is the one that was packed. -/

section
variable (ready : BitVec 1) (channel : BitVec 3) (mode : BitVec 1) (res gain : BitVec 2)

@[simp] theorem confReady_packConf : confReady (packConf ready channel mode res gain) = ready := by
  apply BitVec.eq_of_toNat_eq
  rw [confReady_toNat, packConf_toNat]
  have := channel.isLt; have := mode.isLt; have := res.isLt; have := gain.isLt
  omega

@[simp] theorem confChannel_packConf : confChannel (packConf ready channel mode res gain) = channel := by
  apply BitVec.eq_of_toNat_eq
  rw [confChannel_toNat, packConf_toNat]
  have := channel.isLt; have := mode.isLt; have := res.isLt; have := gain.isLt
  omega

@[simp] theorem confMode_packConf : confMode (packConf ready channel mode res gain) = mode := by
  apply BitVec.eq_of_toNat_eq
  rw [confMode_toNat, packConf_toNat]
  have := mode.isLt; have := res.isLt; have := gain.isLt
  omega

@[simp] theorem confRes_packConf : confRes (packConf ready channel mode res gain) = res := by
  apply BitVec.eq_of_toNat_eq
  rw [confRes_toNat, packConf_toNat]
  have := res.isLt; have := gain.isLt
  omega

@[simp] theorem confGain_packConf : confGain (packConf ready channel mode res gain) = gain := by
  apply BitVec.eq_of_toNat_eq
  rw [confGain_toNat, packConf_toNat]
  have := gain.isLt
  omega

end

theorem validChannel_iff (ch : BitVec 3) : validChannel ch = true ↔ 1 ≤ ch.toNat ∧ ch.toNat ≤ 4 := by
  simp [validChannel]

theorem validConf_iff (c : BitVec 9) : validConf c = true ↔ 1 ≤ c.toNat / 32 % 8 ∧ c.toNat / 32 % 8 ≤ 4 := by
  rw [validConf, validChannel_iff, confChannel_toNat]

/-! PCONF. -/

@[simp] theorem pconfGain_toNat (p : BitVec 14) : (pconfGain p).toNat = p.toNat % 4 := by
  simp [pconfGain]

@[simp] theorem pconfRes_toNat (p : BitVec 14) : (pconfRes p).toNat = p.toNat / 8 % 4 :=
  toNat_field p 3 2

@[simp] theorem pconfMode_toNat (p : BitVec 14) : (pconfMode p).toNat = p.toNat / 64 % 2 :=
  toNat_field p 6 1

@[simp] theorem pconfChannel_toNat (p : BitVec 14) : (pconfChannel p).toNat = p.toNat / 256 % 8 :=
  toNat_field p 8 3

@[simp] theorem pconfReady_toNat (p : BitVec 14) : (pconfReady p).toNat = p.toNat / 4096 % 2 :=
  toNat_field p 12 1

theorem pconfGainSet_iff (p : BitVec 14) : pconfGainSet p = true ↔ p.toNat / 4 % 2 = 1 := getLsbD_iff p 2

theorem pconfResSet_iff (p : BitVec 14) : pconfResSet p = true ↔ p.toNat / 32 % 2 = 1 := getLsbD_iff p 5

theorem pconfModeSet_iff (p : BitVec 14) : pconfModeSet p = true ↔ p.toNat / 128 % 2 = 1 := getLsbD_iff p 7

theorem pconfChannelSet_iff (p : BitVec 14) : pconfChannelSet p = true ↔ p.toNat / 2048 % 2 = 1 := getLsbD_iff p 11

theorem pconfReadySet_iff (p : BitVec 14) : pconfReadySet p = true ↔ p.toNat / 8192 % 2 = 1 := getLsbD_iff p 13

/-- The merge, field by field, as arithmetic (rule R142). -/
theorem mergeConf_toNat (c : BitVec 9) (p : BitVec 14) :
    (mergeConf c p).toNat =
      (if p.toNat / 8192 % 2 = 1 then p.toNat / 4096 % 2 else c.toNat / 256) * 256 +
      (if p.toNat / 2048 % 2 = 1 then p.toNat / 256 % 8 else c.toNat / 32 % 8) * 32 +
      (if p.toNat / 128 % 2 = 1 then p.toNat / 64 % 2 else c.toNat / 16 % 2) * 16 +
      (if p.toNat / 32 % 2 = 1 then p.toNat / 8 % 4 else c.toNat / 4 % 4) * 4 +
      (if p.toNat / 4 % 2 = 1 then p.toNat % 4 else c.toNat % 4) := by
  simp only [mergeConf, packConf_toNat, apply_ite BitVec.toNat, pconfGainSet_iff, pconfResSet_iff,
    pconfModeSet_iff, pconfChannelSet_iff, pconfReadySet_iff, confGain_toNat, confRes_toNat, confMode_toNat,
    confChannel_toNat, confReady_toNat, pconfGain_toNat, pconfRes_toNat, pconfMode_toNat, pconfChannel_toNat,
    pconfReady_toNat]

/-- The channel of a merged CONF value (rule R142). -/
@[simp] theorem confChannel_mergeConf (c : BitVec 9) (p : BitVec 14) :
    confChannel (mergeConf c p) = if pconfChannelSet p then pconfChannel p else confChannel c := by
  rw [mergeConf, confChannel_packConf]

/-- A merge onto the result of the same merge changes nothing (rule R142). -/
theorem mergeConf_mergeConf (c : BitVec 9) (p : BitVec 14) : mergeConf (mergeConf c p) p = mergeConf c p := by
  simp only [mergeConf, confReady_packConf, confChannel_packConf, confMode_packConf, confRes_packConf,
    confGain_packConf]
  congr 1 <;> split <;> rfl

/-! The configuration byte. -/

/-- The byte of a valid CONF value (rules R91, R140). -/
theorem encodeConf_toNat (c : BitVec 9) (h : validConf c = true) :
    (encodeConf c).toNat =
      c.toNat / 256 * 128 + (c.toNat / 32 % 8 - 1) * 32 + c.toNat / 16 % 2 * 16 + c.toNat / 4 % 4 * 4 +
        c.toNat % 4 := by
  have hc := (validConf_iff c).mp h
  simp only [encodeConf, toNat_append_add, toNat_field, BitVec.toNat_sub, confGain_toNat, confRes_toNat,
    confMode_toNat, confChannel_toNat, confReady_toNat, BitVec.toNat_ofNat]
  omega

/-- The CONF value of a byte (rules R91, R141). -/
theorem decodeConf_toNat (b : Byte) :
    (decodeConf b).toNat = b.toNat / 128 * 256 + (b.toNat / 32 % 4 + 1) * 32 + b.toNat % 32 := by
  revert b
  decide

theorem decodeConf_valid (b : Byte) : validConf (decodeConf b) = true := by
  rw [validConf_iff, decodeConf_toNat]
  have := b.isLt
  omega

/-! Enumerations. -/

theorem resolutionOfCode_eq (code : BitVec 2) :
    resolutionOfCode code =
      if code.toNat = 0 then .bits12 else if code.toNat = 1 then .bits14 else if code.toNat = 2 then .bits16
      else .bits18 := by
  revert code; decide

theorem gainOfCode_eq (code : BitVec 2) :
    gainOfCode code =
      if code.toNat = 0 then .x1 else if code.toNat = 1 then .x2 else if code.toNat = 2 then .x4 else .x8 := by
  revert code; decide

theorem confResolution_bits18 (c : BitVec 9) : confResolution c = .bits18 ↔ c.toNat / 4 % 4 = 3 := by
  rw [confResolution, resolutionOfCode_eq, confRes_toNat]
  split <;> [skip; split <;> [skip; split]] <;> simp <;> omega

/-- The payload size (rule R161) as arithmetic on the code. -/
theorem payload_eq (c : BitVec 9) : payload (confResolution c) = if c.toNat / 4 % 4 = 3 then 3 else 2 := by
  by_cases h : c.toNat / 4 % 4 = 3
  · rw [(confResolution_bits18 c).mpr h, if_pos h, payload]
  · rw [if_neg h]
    have : confResolution c ≠ .bits18 := fun h' => h ((confResolution_bits18 c).mp h')
    revert this
    cases confResolution c <;> simp [payload]

/-! The sample. -/

/-- The assembled sample (rule R170) as arithmetic on the bytes. -/
theorem assemble_toNat (b : Block) (res : Resolution) :
    (b.assemble res).toNat =
      if res = .bits18 then (b.frame0.toNat * 65536 + b.frame1.toNat * 256 + b.frame2.toNat) % 262144
      else b.frame0.toNat * 256 + b.frame1.toNat := by
  have h0 := b.frame0.isLt
  have h1 := b.frame1.isLt
  cases res <;> simp only [Block.assemble, BitVec.toNat_setWidth, toNat_append_add] <;> simp <;> omega

/-! STATUS. -/

theorem faultStatus_toNat (r : FaultReport) :
    (faultStatus r).toNat = r.info.toNat * 16 + 8 + r.cause.code.toNat := by
  simp only [faultStatus, toNat_append_add]
  simp
  omega

theorem faultStatus_eq (r : FaultReport) :
    faultStatus r = BitVec.ofNat 12 (r.info.toNat * 16 + 8 + r.cause.code.toNat) := by
  rw [← faultStatus_toNat, BitVec.ofNat_toNat, BitVec.setWidth_eq]

theorem statusErr_iff (st : BitVec 12) : statusErr st = true ↔ st.toNat / 8 % 2 = 1 := getLsbD_iff st 3

theorem Cause.code_bounds (c : Cause) : 1 ≤ c.code.toNat ∧ c.code.toNat ≤ 6 := by
  cases c <;> decide

/-- A recorded fault has ERR = 1 (rule R226). -/
@[simp] theorem statusErr_faultStatus (r : FaultReport) : statusErr (faultStatus r) = true := by
  have := r.cause.code_bounds
  rw [statusErr_iff, faultStatus_toNat]
  omega

end Machine
end Sys2Proof
end

