-- ==== Sys2Proof/Laws/State.lean ====
section
/-! SUPPORT. What each update of the state leaves in each field, so that no later proof unfolds a record update. -/

namespace Sys2Proof
namespace Machine

section
variable (s : State) (b : Block) (r : FaultReport) (v : Nat) (x : HostInput)

/-! `raiseFault` writes STATUS alone (rule R226). -/

theorem Block.raiseFault_of_not_err (h : b.err = false) : b.raiseFault r = { b with status := faultStatus r } := by
  simp [Block.raiseFault, h]

theorem Block.raiseFault_of_err (h : b.err = true) : b.raiseFault r = b := by
  simp [Block.raiseFault, h]

@[simp] theorem Block.raiseFault_flen : (b.raiseFault r).flen = b.flen := by
  unfold Block.raiseFault; split <;> rfl

@[simp] theorem Block.raiseFault_frame0 : (b.raiseFault r).frame0 = b.frame0 := by
  unfold Block.raiseFault; split <;> rfl

@[simp] theorem Block.raiseFault_frame1 : (b.raiseFault r).frame1 = b.frame1 := by
  unfold Block.raiseFault; split <;> rfl

@[simp] theorem Block.raiseFault_frame2 : (b.raiseFault r).frame2 = b.frame2 := by
  unfold Block.raiseFault; split <;> rfl

@[simp] theorem Block.raiseFault_frame3 : (b.raiseFault r).frame3 = b.frame3 := by
  unfold Block.raiseFault; split <;> rfl

@[simp] theorem Block.raiseFault_frame4 : (b.raiseFault r).frame4 = b.frame4 := by
  unfold Block.raiseFault; split <;> rfl

@[simp] theorem Block.raiseFault_cfgbyte : (b.raiseFault r).cfgbyte = b.cfgbyte := by
  unfold Block.raiseFault; split <;> rfl

@[simp] theorem Block.raiseFault_locidx : (b.raiseFault r).locidx = b.locidx := by
  unfold Block.raiseFault; split <;> rfl

@[simp] theorem Block.raiseFault_conf : (b.raiseFault r).conf = b.conf := by
  unfold Block.raiseFault; split <;> rfl

@[simp] theorem Block.raiseFault_pconf : (b.raiseFault r).pconf = b.pconf := by
  unfold Block.raiseFault; split <;> rfl

@[simp] theorem Block.raiseFault_raw : (b.raiseFault r).raw = b.raw := by
  unfold Block.raiseFault; split <;> rfl

@[simp] theorem Block.raiseFault_signed : (b.raiseFault r).signed = b.signed := by
  unfold Block.raiseFault; split <;> rfl

@[simp] theorem Block.raiseFault_physDen : (b.raiseFault r).physDen = b.physDen := by
  unfold Block.raiseFault; split <;> rfl

@[simp] theorem Block.raiseFault_physF : (b.raiseFault r).physF = b.physF := by
  unfold Block.raiseFault; split <;> rfl

theorem Block.raiseFault_status : (b.raiseFault r).status = if b.err then b.status else faultStatus r := by
  unfold Block.raiseFault; split <;> rfl

/-- After `raiseFault` the block is faulted, whether by this fault or by an earlier one. -/
@[simp] theorem Block.raiseFault_err : (b.raiseFault r).err = true := by
  cases h : b.err
  · simp [Block.raiseFault_of_not_err b r h, Block.err]
  · simp [Block.raiseFault_of_err b r h, h]

/-- Taking a fault, field by field. -/
theorem Block.raiseFault_frame : b.raiseFault r = { b with status := (b.raiseFault r).status } := by
  unfold Block.raiseFault; split <;> rfl

/-! A store leaves the read-only registers alone (rule R124). -/

variable (reg : RegName)

@[simp] theorem Block.writeReg_status : (b.writeReg reg v).status = b.status := by cases reg <;> rfl

@[simp] theorem Block.writeReg_locidx : (b.writeReg reg v).locidx = b.locidx := by cases reg <;> rfl

@[simp] theorem Block.writeReg_signed : (b.writeReg reg v).signed = b.signed := by cases reg <;> rfl

@[simp] theorem Block.writeReg_physDen : (b.writeReg reg v).physDen = b.physDen := by cases reg <;> rfl

@[simp] theorem Block.writeReg_physF : (b.writeReg reg v).physF = b.physF := by cases reg <;> rfl

@[simp] theorem Block.writeReg_err : (b.writeReg reg v).err = b.err := by cases reg <;> rfl

/-! The host's side. -/

@[simp] theorem State.receive_block : (s.receive v).block = s.block := rfl

@[simp] theorem State.receive_pending : (s.receive v).host.pending = s.host.pending := rfl

@[simp] theorem State.receive_received : (s.receive v).host.received = v :: s.host.received := rfl

@[simp] theorem State.issueNext_block : (s.issueNext x).block = s.block := rfl

@[simp] theorem State.issueNext_pending : (s.issueNext x).host.pending = x :: s.host.pending := rfl

@[simp] theorem State.issueNext_received : (s.issueNext x).host.received = s.host.received := rfl

@[simp] theorem State.resetBlock_block : s.resetBlock.block = Block.reset := rfl

@[simp] theorem State.resetBlock_host : s.resetBlock.host = s.host := rfl

@[simp] theorem State.runCommand_host (body : Block → CommandResult) : (s.runCommand body).host = s.host := by
  unfold State.runCommand; split <;> rfl

@[simp] theorem Block.reset_err : Block.reset.err = false := rfl

end

end Machine
end Sys2Proof
end

