-- ==== Sys2Proof/Laws/Ops.lean ====
section
/-! SUPPORT. One lemma for each shared operation that says all it can do: running a command, the register map, reading and
writing a register, the frame-length check and the marker scan. Provers cite these instead of unfolding. -/

namespace Sys2Proof
namespace Machine

/-! Running a command (rules R125, R126). -/

section
variable {s : State} {body : Block → CommandResult} {b' : Block} {r : FaultReport}

theorem State.runCommand_of_err (h : s.block.err = true) : s.runCommand body = s := by
  simp [State.runCommand, h]

theorem State.runCommand_of_not_err (h : s.block.err = false) :
    s.runCommand body = { s with block := s.block.finish (body s.block) } := by
  simp [State.runCommand, h]

theorem State.runCommand_of_ok (h : s.block.err = false) (hb : body s.block = .ok b') :
    s.runCommand body = { s with block := b' } := by
  rw [State.runCommand_of_not_err h, hb]
  rfl

theorem State.runCommand_of_error (h : s.block.err = false) (hb : body s.block = .error r) :
    s.runCommand body = { s with block := { s.block with status := faultStatus r } } := by
  rw [State.runCommand_of_not_err h, hb, Block.finish, Block.raiseFault_of_not_err _ _ h]

/-- All that running a command can do: nothing in the faulted state, or the command's results, or its fault. -/
theorem State.runCommand_cases (s : State) (body : Block → CommandResult) :
    (s.block.err = true ∧ s.runCommand body = s) ∨
    (∃ b', s.block.err = false ∧ body s.block = .ok b' ∧ s.runCommand body = { s with block := b' }) ∨
    (∃ r, s.block.err = false ∧ body s.block = .error r ∧
      s.runCommand body = { s with block := { s.block with status := faultStatus r } }) := by
  cases h : s.block.err
  · cases hb : body s.block with
    | ok b' => exact .inr (.inl ⟨b', rfl, rfl, State.runCommand_of_ok h hb⟩)
    | error r => exact .inr (.inr ⟨r, rfl, rfl, State.runCommand_of_error h hb⟩)
  · exact .inl ⟨rfl, State.runCommand_of_err h⟩

end

/-! The register map (rule R62). -/

@[simp] theorem regAt_regAddr (r : RegName) : regAt (regAddr r) = some r := by cases r <;> rfl

theorem regAt_some {a : HostAddr} {r : RegName} (h : regAt a = some r) : a = regAddr r := by
  revert r h a
  decide

theorem regAt_none {a : HostAddr} : regAt a = none ↔ 0x10 ≤ a.toNat := by
  revert a
  decide

/-- A read value is below 2^width of its register (rule R121). -/
theorem Block.readReg_lt (b : Block) (r : RegName) : b.readReg r < 2 ^ regWidth r := by
  cases r <;> first | exact BitVec.isLt _ | exact Nat.two_pow_pos _

/-- What is stored reads back (rule R37). -/
theorem Block.readReg_writeReg (b : Block) {r : RegName} {v : Nat} (hw : regWritable r = true) (hr : r ≠ .cmd)
    (hv : v < 2 ^ regWidth r) : (b.writeReg r v).readReg r = v := by
  cases r <;> first | exact absurd rfl hr | exact absurd hw (by decide) | exact Nat.mod_eq_of_lt hv

/-! The frame-length check (rule R160). -/

theorem Block.checkFlen_cases (b : Block) (min : Nat) (op : Byte) :
    (5 < b.flen.toNat ∧ b.checkFlen min op = some ⟨.invalidArg, op⟩) ∨
    (b.flen.toNat ≤ 5 ∧ b.flen.toNat < min ∧ b.checkFlen min op = some ⟨.frameShort, op⟩) ∨
    (b.flen.toNat ≤ 5 ∧ min ≤ b.flen.toNat ∧ b.checkFlen min op = none) := by
  unfold Block.checkFlen
  split
  · left; exact ⟨by omega, rfl⟩
  · split
    · right; left; exact ⟨by omega, by omega, rfl⟩
    · right; right; exact ⟨by omega, by omega, rfl⟩

/-! The marker scan (rules R162, R166). -/

theorem Block.scanFrom_of_lt (b : Block) {i : Nat} (h : i < 3) : b.scanFrom i = none := by
  cases i with
  | zero => rfl
  | succ n => rw [Block.scanFrom, if_pos h]

theorem Block.scanFrom_three (b : Block) :
    b.scanFrom 3 = if b.frame3 = b.frame2 ||| 0x80#8 then some 2 else none := by
  rw [Block.scanFrom, if_neg (by decide), b.scanFrom_of_lt (by decide : 2 < 3)]
  rfl

theorem Block.scanFrom_four (b : Block) :
    b.scanFrom 4 =
      if b.frame4 = b.frame3 ||| 0x80#8 then some 3
      else if b.frame3 = b.frame2 ||| 0x80#8 then some 2 else none := by
  rw [Block.scanFrom, if_neg (by decide), b.scanFrom_three]
  rfl

/-- The scan of a frame that FLEN can have: the pair at the end first, and index 2 or 3 (rule R166). -/
theorem Block.locate_eq (b : Block) (h : b.flen.toNat ≤ 5) :
    b.locate =
      if b.flen.toNat = 5 ∧ b.frame4 = b.frame3 ||| 0x80#8 then some 3
      else if 4 ≤ b.flen.toNat ∧ b.frame3 = b.frame2 ||| 0x80#8 then some 2 else none := by
  unfold Block.locate
  rcases Nat.lt_or_ge b.flen.toNat 4 with hn | hn
  · rw [b.scanFrom_of_lt (by omega), if_neg (by omega), if_neg (by omega)]
  · rcases (by omega : b.flen.toNat = 4 ∨ b.flen.toNat = 5) with h4 | h5
    · rw [h4, b.scanFrom_three]; simp
    · rw [h5, b.scanFrom_four]; simp

/-- The index that the scan finds is 2 or 3 (rules R31, R162). -/
theorem Block.locate_range (b : Block) {j : Nat} (h : b.flen.toNat ≤ 5) (hj : b.locate = some j) : j = 2 ∨ j = 3 := by
  rw [b.locate_eq h] at hj
  split at hj
  · right; exact (Option.some.inj hj).symm
  · split at hj
    · left; exact (Option.some.inj hj).symm
    · cases hj

end Machine
end Sys2Proof
end

