-- ==== Sys2Proof/Laws/Commands.lean ====
section
/-! SUPPORT. What each command body can answer: its results under the checks that come first, or the fault of the check
that fails. One lemma for each direction of each body. -/

namespace Sys2Proof
namespace Machine

section
variable {b b' : Block} {r : FaultReport}

/-! ENC, DCFG, MERGE. -/

theorem encBody_cases (b : Block) :
    (validConf b.conf = true ∧ encBody b = .ok { b with cfgbyte := encodeConf b.conf }) ∨
    (validConf b.conf = false ∧ encBody b = .error ⟨.invalidArg, 0x01#8⟩) := by
  cases h : validConf b.conf <;> simp [encBody, h]

theorem mergeBody_cases (b : Block) :
    ((validConf b.conf = false ∨ pconfChannelSet b.pconf = true ∧ validChannel (pconfChannel b.pconf) = false) ∧
      mergeBody b = .error ⟨.invalidArg, 0x07#8⟩) ∨
    (validConf b.conf = true ∧ (pconfChannelSet b.pconf = true → validChannel (pconfChannel b.pconf) = true) ∧
      mergeBody b = .ok { b with conf := mergeConf b.conf b.pconf }) := by
  cases h : validConf b.conf <;> cases h1 : pconfChannelSet b.pconf <;>
    cases h2 : validChannel (pconfChannel b.pconf) <;> simp [mergeBody, h, h1, h2]

/-! LOC, DSMP, FRAME. -/

theorem locBody_cases (b : Block) :
    (5 < b.flen.toNat ∧ locBody b = .error ⟨.invalidArg, 0x03#8⟩) ∨
    (b.flen.toNat < 3 ∧ locBody b = .error ⟨.frameShort, 0x03#8⟩) ∨
    (3 ≤ b.flen.toNat ∧ b.flen.toNat ≤ 5 ∧ b.locate = none ∧ locBody b = .error ⟨.frameNoMarker, 0x03#8⟩) ∨
    (∃ j, 3 ≤ b.flen.toNat ∧ b.flen.toNat ≤ 5 ∧ b.locate = some j ∧
      locBody b = .ok { b with cfgbyte := b.frameAt j, locidx := BitVec.ofNat 3 j }) := by
  rcases b.checkFlen_cases 3 0x03#8 with ⟨h, e⟩ | ⟨_, h, e⟩ | ⟨h5, h3, e⟩
  · exact .inl ⟨h, by rw [locBody, e]⟩
  · exact .inr (.inl ⟨h, by rw [locBody, e]⟩)
  · cases hl : b.locate with
    | none => exact .inr (.inr (.inl ⟨h3, h5, rfl, by rw [locBody, e, hl]⟩))
    | some j => exact .inr (.inr (.inr ⟨j, h3, h5, rfl, by rw [locBody, e, hl]⟩))

theorem dsmpBody_cases (b : Block) :
    ((validConf b.conf = false ∨ 5 < b.flen.toNat) ∧ dsmpBody b = .error ⟨.invalidArg, 0x04#8⟩) ∨
    (validConf b.conf = true ∧ b.flen.toNat < payload (confResolution b.conf) ∧
      dsmpBody b = .error ⟨.frameShort, 0x04#8⟩) ∨
    (validConf b.conf = true ∧ payload (confResolution b.conf) ≤ b.flen.toNat ∧ b.flen.toNat ≤ 5 ∧
      dsmpBody b = .ok { b with raw := b.assemble (confResolution b.conf) }) := by
  cases hv : validConf b.conf
  · exact .inl ⟨.inl rfl, by simp [dsmpBody, hv]⟩
  · rcases b.checkFlen_cases (payload (confResolution b.conf)) 0x04#8 with ⟨h, e⟩ | ⟨_, h, e⟩ | ⟨h5, h3, e⟩
    · exact .inl ⟨.inr h, by simp [dsmpBody, hv, e]⟩
    · exact .inr (.inl ⟨rfl, h, by simp [dsmpBody, hv, e]⟩)
    · exact .inr (.inr ⟨rfl, h3, h5, by simp [dsmpBody, hv, e]⟩)

/-- The results that FRAME writes for the configuration byte at index `j`. -/
theorem frameBody_cases (b : Block) :
    (5 < b.flen.toNat ∧ frameBody b = .error ⟨.invalidArg, 0x06#8⟩) ∨
    (b.flen.toNat < 3 ∧ frameBody b = .error ⟨.frameShort, 0x06#8⟩) ∨
    (3 ≤ b.flen.toNat ∧ b.flen.toNat ≤ 5 ∧ b.frameConfigIndex = none ∧
      frameBody b = .error ⟨.frameNoMarker, 0x06#8⟩) ∨
    (∃ j, 3 ≤ b.flen.toNat ∧ b.flen.toNat ≤ 5 ∧ b.frameConfigIndex = some j ∧
      j < payload (confResolution (decodeConf (b.frameAt j))) ∧ frameBody b = .error ⟨.frameLayout, 0x06#8⟩) ∨
    (∃ j, 3 ≤ b.flen.toNat ∧ b.flen.toNat ≤ 5 ∧ b.frameConfigIndex = some j ∧
      payload (confResolution (decodeConf (b.frameAt j))) ≤ j ∧
      frameBody b = .ok { b with
        cfgbyte := b.frameAt j, locidx := BitVec.ofNat 3 j, conf := decodeConf (b.frameAt j),
        raw := b.assemble (confResolution (decodeConf (b.frameAt j))) }) := by
  rcases b.checkFlen_cases 3 0x06#8 with ⟨h, e⟩ | ⟨_, h, e⟩ | ⟨h5, h3, e⟩
  · exact .inl ⟨h, by rw [frameBody, e]⟩
  · exact .inr (.inl ⟨h, by rw [frameBody, e]⟩)
  · cases hl : b.frameConfigIndex with
    | none => exact .inr (.inr (.inl ⟨h3, h5, rfl, by rw [frameBody, e, hl]⟩))
    | some j =>
      rcases Nat.lt_or_ge j (payload (confResolution (decodeConf (b.frameAt j)))) with hp | hp
      · exact .inr (.inr (.inr (.inl ⟨j, h3, h5, rfl, hp, by simp [frameBody, e, hl, hp]⟩)))
      · exact .inr (.inr (.inr (.inr ⟨j, h3, h5, rfl, hp, by simp [frameBody, e, hl, Nat.not_lt.mpr hp]⟩)))

/-- Where FRAME finds the configuration byte: index 2 or 3 (rule R31). -/
theorem Block.frameConfigIndex_range (b : Block) {j : Nat} (h : b.flen.toNat ≤ 5) (hj : b.frameConfigIndex = some j) :
    j = 2 ∨ j = 3 := by
  unfold Block.frameConfigIndex at hj
  split at hj
  · left; exact (Option.some.inj hj).symm
  · exact b.locate_range h hj

/-! TOPHYS. -/

theorem tophysBody_cases (b : Block) :
    ((validConf b.conf = false ∨ 2 ^ nominalWidth (confResolution b.conf) ≤ b.raw.toNat) ∧
      tophysBody b = .error ⟨.invalidArg, 0x05#8⟩) ∨
    (validConf b.conf = true ∧ b.raw.toNat < 2 ^ nominalWidth (confResolution b.conf) ∧
      tophysBody b = .ok { b with
        signed := BitVec.ofInt 18 (signedOf b.raw.toNat (confResolution b.conf))
        physDen := BitVec.ofNat 19 (physDenominator (confResolution b.conf) (confGainOf b.conf))
        physF := Config.physRound (exactValue (signedOf b.raw.toNat (confResolution b.conf))
          (physDenominator (confResolution b.conf) (confGainOf b.conf))) }) := by
  cases hv : validConf b.conf
  · exact .inl ⟨.inl rfl, by simp [tophysBody, hv]⟩
  · rcases Nat.lt_or_ge b.raw.toNat (2 ^ nominalWidth (confResolution b.conf)) with hr | hr
    · exact .inr ⟨rfl, hr, by simp [tophysBody, hv, Nat.not_le.mpr hr]⟩
    · exact .inl ⟨.inr hr, by simp [tophysBody, hv, hr]⟩

end

/-! WR and RD. -/

/-- A write while ERR = 0 (rules R123 to R125). -/
theorem writeBody_cases (a : HostAddr) (v : Nat) (b : Block) :
    ((regAt a = none ∨ ∃ r, regAt a = some r ∧ (regWritable r = false ∨ 2 ^ regWidth r ≤ v)) ∧
      writeBody a v b = .error ⟨.badAccess, a⟩) ∨
    (a = 0x00#8 ∧ v < 256 ∧ writeBody a v b = executeBody (BitVec.ofNat 8 v) b) ∨
    (∃ r, regAt a = some r ∧ r ≠ .cmd ∧ regWritable r = true ∧ v < 2 ^ regWidth r ∧
      writeBody a v b = .ok (b.writeReg r v)) := by
  cases h : regAt a with
  | none => exact .inl ⟨.inl rfl, by simp [writeBody, h]⟩
  | some r =>
    cases hw : regWritable r
    · exact .inl ⟨.inr ⟨r, rfl, .inl hw⟩, by simp [writeBody, h, hw]⟩
    · rcases Nat.lt_or_ge v (2 ^ regWidth r) with hv | hv
      · by_cases hc : r = .cmd
        · subst hc
          exact .inr (.inl ⟨regAt_some h, hv, by simp [writeBody, h, hw, Nat.not_le.mpr hv]⟩)
        · exact .inr (.inr ⟨r, rfl, hc, hw, hv, by simp [writeBody, h, hw, Nat.not_le.mpr hv, hc]⟩)
      · exact .inl ⟨.inr ⟨r, rfl, .inr hv⟩, by simp [writeBody, h, hw, hv]⟩

/-- `execute` (rule R125). -/
theorem executeBody_cases (word : Byte) (b : Block) :
    (∃ c, decodeCommand word = some c ∧ executeBody word b = commandBody c b) ∨
    (decodeCommand word = none ∧ executeBody word b = .error ⟨.illegalCmd, word⟩) := by
  cases h : decodeCommand word with
  | some c => exact .inl ⟨c, rfl, by rw [executeBody, h]⟩
  | none => exact .inr ⟨rfl, by rw [executeBody, h]⟩

/-- All that RD can do (rules R121, R122). -/
theorem execRd_cases (a : HostAddr) (s : State) :
    (∃ r, regAt a = some r ∧ r ≠ .cmd ∧ execRd a s = .next (s.receive (s.block.readReg r))) ∨
    ((regAt a = none ∨ regAt a = some .cmd) ∧ execRd a s = .next (s.badRead a)) := by
  cases h : regAt a with
  | none => exact .inr ⟨.inl rfl, by simp [execRd, h]⟩
  | some r =>
    cases r <;> first
      | exact .inr ⟨.inr rfl, by simp [execRd, h, regReadable]⟩
      | exact .inl ⟨_, rfl, by decide, by simp [execRd, h, regReadable]⟩

/-- All that WR can do (rules R123, R126). -/
theorem execWr_cases (a : HostAddr) (v : Nat) (s : State) :
    (s.block.err = true ∧ a = 0x00#8 ∧ v = 0x0F ∧ execWr a v s = .next s.resetBlock) ∨
    (s.block.err = true ∧ ¬(a = 0x00#8 ∧ v = 0x0F) ∧ execWr a v s = .next s) ∨
    (s.block.err = false ∧ execWr a v s = .next { s with block := s.block.finish (writeBody a v s.block) }) := by
  cases h : s.block.err
  · exact .inr (.inr ⟨rfl, by simp [execWr, h]⟩)
  · by_cases ha : a = 0x00#8 ∧ v = 0x0F
    · exact .inl ⟨rfl, ha.1, ha.2, by simp [execWr, h, ha, regAddr]⟩
    · refine .inr (.inl ⟨rfl, ha, ?_⟩)
      have : ¬(a = regAddr .cmd ∧ v = 0x0F) := ha
      simp only [execWr, h, if_true, this, if_false]

section
variable {s : State} {a : HostAddr} {v : Nat}

/-- A write that is stored (rule R123). -/
theorem execWr_of_store {r : RegName} (he : s.block.err = false) (h : regAt a = some r)
    (hw : regWritable r = true) (hc : r ≠ .cmd) (hv : v < 2 ^ regWidth r) :
    execWr a v s = .next { s with block := s.block.writeReg r v } := by
  simp [execWr, he, writeBody, h, hw, hc, Nat.not_le.mpr hv, Block.finish]

/-- A bad write (rule R124). -/
theorem execWr_of_bad (he : s.block.err = false) (hb : writeBody a v s.block = .error ⟨.badAccess, a⟩) :
    execWr a v s =
      .next { s with block := { s.block with status := BitVec.ofNat 12 (a.toNat * 16 + 0x00E) } } := by
  simp only [execWr, he, hb, Block.finish, Block.raiseFault_of_not_err _ _ he, faultStatus_eq]
  rfl

/-- A write of a command word to CMD runs what `execute` says of it (rule R125). -/
theorem writeBody_cmd (word : Byte) (b : Block) : writeBody 0x00#8 word.toNat b = executeBody word b := by
  rcases writeBody_cases 0x00#8 word.toNat b with ⟨h, _⟩ | ⟨_, _, h⟩ | ⟨r, h, h', _⟩
  · have hl := word.isLt
    have h0 : regAt 0x00#8 = some .cmd := rfl
    simp [h0, regWritable, regWidth] at h
    omega
  · simpa using h
  · cases h
    exact absurd rfl h'

end

/-! Decoding. -/

theorem decodeCommand_opcode (c : Command) : decodeCommand c.opcode = some c := by cases c <;> rfl

theorem decodeCommand_some {word : Byte} {c : Command} (h : decodeCommand word = some c) : word = c.opcode := by
  revert c h word
  decide

theorem decodeCommand_isSome (word : Byte) : (decodeCommand word).isSome = legalCommandWord word := by
  revert word
  decide

/-! Headers (rule R101). -/

theorem writeHeader_fields (a : HostAddr) :
    headerIsWrite (writeHeader a) = true ∧ headerAddr (writeHeader a) = a := by
  revert a
  decide

theorem readHeader_fields (a : HostAddr) :
    headerIsWrite (readHeader a) = false ∧ headerAddr (readHeader a) = a := by
  revert a
  decide

theorem writeHeader_headerAddr (h : Header) (hw : headerIsWrite h = true) : writeHeader (headerAddr h) = h := by
  revert h
  decide

theorem readHeader_headerAddr (h : Header) (hw : headerIsWrite h = false) : readHeader (headerAddr h) = h := by
  revert h
  decide

end Machine
end Sys2Proof
end

