-- ==== Sys2Proof/Laws/Conversion.lean ====
section
/-! SUPPORT. The conversion as arithmetic: the mask of rule R192, the range of the signed count (rule R193), the denominators
(rule R197), and that SIGNED and PHYS_DEN hold them without loss. -/

namespace Sys2Proof
namespace Machine

theorem nominalWidth_eq (res : Resolution) : nominalWidth res = if res = .bits18 then 18 else 16 := by
  cases res <;> rfl

theorem nominalMask_eq (res : Resolution) : nominalMask res = 2 ^ nominalWidth res - 1 := by
  cases res <;> decide

/-- Flipping every bit below the width (rule R194). -/
theorem xor_nominalMask {raw : Nat} {res : Resolution} (h : raw < 2 ^ nominalWidth res) :
    raw ^^^ nominalMask res = nominalMask res - raw := by
  have hx := congrArg BitVec.toNat (BitVec.xor_allOnes (x := BitVec.ofNat (nominalWidth res) raw))
  rwa [BitVec.toNat_xor, BitVec.toNat_not, BitVec.toNat_ofNat, BitVec.toNat_allOnes, Nat.mod_eq_of_lt h,
    ← nominalMask_eq] at hx

/-- The top bit of the nominal width as a comparison. -/
theorem testBit_top {raw : Nat} {res : Resolution} (h : raw < 2 ^ nominalWidth res) :
    raw.testBit (nominalWidth res - 1) = decide (2 ^ (nominalWidth res - 1) ≤ raw) := by
  rw [Nat.testBit_eq_decide_div_mod_eq]
  cases res <;> simp only [nominalWidth] at h ⊢ <;> norm_num at h ⊢ <;> omega

/-- The range of the signed count (rule R193). -/
theorem signedOf_range {raw : Nat} {res : Resolution} (h : raw < 2 ^ nominalWidth res) :
    -(2 ^ (nominalWidth res - 1)) ≤ signedOf raw res ∧ signedOf raw res < 2 ^ (nominalWidth res - 1) := by
  rw [signedOf, testBit_top h, xor_nominalMask h, nominalMask_eq]
  cases res <;> simp only [nominalWidth] at h ⊢ <;> norm_num at h ⊢ <;> split <;> omega

/-- SIGNED holds the count of rule R193 without loss (rule R33). -/
theorem toInt_ofInt_signedOf {raw : Nat} {res : Resolution} (h : raw < 2 ^ nominalWidth res) :
    (BitVec.ofInt 18 (signedOf raw res)).toInt = signedOf raw res := by
  have hr := signedOf_range h
  rw [BitVec.toInt_ofInt]
  apply Int.bmod_eq_of_le <;> cases res <;> simp only [nominalWidth] at hr <;> norm_num at hr ⊢ <;> omega

theorem physDenominator_bounds (res : Resolution) (gain : Gain) :
    1000 ≤ physDenominator res gain ∧ physDenominator res gain ≤ 512000 := by
  cases res <;> cases gain <;> decide

/-- PHYS_DEN holds every denominator without loss (rule R197). -/
theorem toNat_ofNat_physDenominator (res : Resolution) (gain : Gain) :
    (BitVec.ofNat 19 (physDenominator res gain)).toNat = physDenominator res gain := by
  have := physDenominator_bounds res gain
  rw [BitVec.toNat_ofNat]
  exact Nat.mod_eq_of_lt (by omega)

/-- What TOPHYS rounds is a value that rule R196 speaks of. -/
theorem isPhysValue_signedOf {raw : Nat} {res : Resolution} (gain : Gain) (h : raw < 2 ^ nominalWidth res) :
    Config.IsPhysValue (exactValue (signedOf raw res) (physDenominator res gain)) := by
  have hr := signedOf_range h
  have hd := physDenominator_bounds res gain
  refine ⟨_, _, ?_, ?_, hd.1, hd.2, rfl⟩ <;> cases res <;> simp only [nominalWidth] at hr <;> norm_num at hr ⊢ <;>
    omega

end Machine
end Sys2Proof
end

