-- ==== Sys2Proof/Laws/Environment.lean ====
section
/-! SUPPORT. The read frames of rule R68 as propositions, their lengths, runs of host programs, and what a frame buffer that
presents a frame holds. -/

namespace Sys2Proof
namespace Machine

theorem deviceResolution_bits18 (c : Byte) : deviceResolution c = .bits18 ↔ c.toNat / 4 % 4 = 3 := by
  rw [deviceResolution, confResolution_bits18, decodeConf_toNat]
  omega

theorem plainReadFrame_iff (c : Byte) (frame : List Byte) :
    plainReadFrame c frame = true ↔ frame.length = 3 ∧ deviceResolution c ≠ .bits18 := by
  simp only [plainReadFrame, Bool.and_eq_true, decide_eq_true_eq]

theorem selfIdentifyingReadFrame_iff (c : Byte) (frame : List Byte) :
    selfIdentifyingReadFrame c frame = true ↔
      (frame.length = 4 ∨ frame.length = 5) ∧ frame.getLast? = some (markerOf c) := by
  simp only [selfIdentifyingReadFrame, Bool.or_eq_true, Bool.and_eq_true, decide_eq_true_eq]

/-- A read frame has a length of rule R68. -/
theorem readFrame_length {c : Byte} {frame : List Byte} (h : readFrame c frame = true) :
    readFrameLength frame.length = true := by
  rw [readFrame, Bool.or_eq_true, plainReadFrame_iff, selfIdentifyingReadFrame_iff] at h
  simp only [readFrameLength, Bool.and_eq_true, decide_eq_true_eq]
  omega

@[simp] theorem execAll_nil (s : State) : execAll [] s = .next s := rfl

theorem execAll_cons_of_next {i : Instr} {rest : List Instr} {s t : State} (h : exec i s = .next t) :
    execAll (i :: rest) s = execAll rest t := by
  rw [execAll, h]

/-- Two programs one after the other: the second starts where the first ends. -/
theorem execAll_append {first second : List Instr} {s t : State} (h : execAll first s = .next t) :
    execAll (first ++ second) s = execAll second t := by
  induction first generalizing s with
  | nil => injection h with h; rw [h, List.nil_append]
  | cons i rest ih =>
    cases he : exec i s with
    | next u =>
      rw [execAll_cons_of_next he] at h
      rw [List.cons_append, execAll_cons_of_next he]
      exact ih h
    | fault r => rw [execAll, he] at h; cases h
    | refused r => rw [execAll, he] at h; cases h

/-- FLEN is the length of the frame that the buffer presents (rule R78). -/
theorem Block.presents_flen {b : Block} {frame : List Byte} (h : b.presents frame) : b.flen.toNat = frame.length := h.2.1

/-- A frame longer than 5 bytes cannot be presented (rule R78). -/
theorem Block.presents_length_le {b : Block} {frame : List Byte} (h : b.presents frame) : frame.length ≤ 5 := h.1

/-- Each byte of a presented frame is the register of its index (rules R26, R78). -/
theorem Block.presents_frameAt {b : Block} {frame : List Byte} (h : b.presents frame) {i : Nat} (hi : i < frame.length) :
    b.frameAt i = frame[i] := by
  have := congrArg (fun l => l[i]?) h.2.2
  simpa [hi] using this

end Machine
end Sys2Proof
end

