-- ==== Sys2Proof/Laws/PerInstr.lean ====
section
/-! SUPPORT. The one family of lemmas that is stated instruction by instruction: the encoder writes well-formed accesses
(rules R99, R101), whatever the operands. -/

namespace Sys2Proof
namespace Laws

/-- The instruction is well-formed, and so is the access that it is encoded as. -/
def EncodedWords.Statement (i : Instr) : Prop := i.wellFormed = true ∧ (encode i).wellFormed = true

theorem EncodedWords.nop : EncodedWords.Statement .nop := ⟨rfl, rfl⟩

theorem EncodedWords.enc : EncodedWords.Statement .enc := ⟨rfl, rfl⟩

theorem EncodedWords.dcfg : EncodedWords.Statement .dcfg := ⟨rfl, rfl⟩

theorem EncodedWords.loc : EncodedWords.Statement .loc := ⟨rfl, rfl⟩

theorem EncodedWords.dsmp : EncodedWords.Statement .dsmp := ⟨rfl, rfl⟩

theorem EncodedWords.tophys : EncodedWords.Statement .tophys := ⟨rfl, rfl⟩

theorem EncodedWords.frame : EncodedWords.Statement .frame := ⟨rfl, rfl⟩

theorem EncodedWords.merge : EncodedWords.Statement .merge := ⟨rfl, rfl⟩

theorem EncodedWords.srst : EncodedWords.Statement .srst := ⟨rfl, rfl⟩

theorem EncodedWords.wr (a : HostAddr) (v : Nat) : EncodedWords.Statement (.wr a v) := by
  have h : (writeHeader a).getLsbD 8 = true := (Machine.writeHeader_fields a).1
  exact ⟨rfl, by rw [encode, HostWord.wellFormed, h]; rfl⟩

theorem EncodedWords.rd (a : HostAddr) : EncodedWords.Statement (.rd a) := by
  have h : (readHeader a).getLsbD 8 = false := (Machine.readHeader_fields a).1
  exact ⟨rfl, by rw [encode, HostWord.wellFormed, h]; rfl⟩

end Laws
end Sys2Proof
end

