-- ==== Sys2Proof/Laws/Step.lean ====
section
/-! SUPPORT. What one step can do, by what the oldest pending input is. -/

namespace Sys2Proof
namespace Machine

theorem step_of_nil {s : State} (h : s.host.pending = []) : step s = .next s := by
  simp [step, State.takeInput, h]

theorem step_of_cons {s : State} {input : HostInput} {rest : List HostInput} (h : s.host.pending = input :: rest) :
    step s = runInput input { s with host := { s.host with pending := rest } } := by
  simp [step, State.takeInput, h]

/-- A step that goes on: the block waited, or it was reset, or it ran a decoded instruction, or it took (or, while
faulted, ignored) an illegal command word. -/
theorem step_cases {s t : State} (h : step s = .next t) :
    (s.host.pending = [] ∧ t = s) ∨
    ∃ (input : HostInput) (rest : List HostInput), s.host.pending = input :: rest ∧
      ((input = .rst ∧ t = State.resetBlock { s with host := { s.host with pending := rest } }) ∨
        (∃ (word : HostWord) (i : Instr), input = .access word ∧ decode word = .ok i ∧
          exec i { s with host := { s.host with pending := rest } } = .next t) ∨
        (∃ word : Byte, input = .access (.command word) ∧ decodeCommand word = none ∧
          t = State.illegalCommand { s with host := { s.host with pending := rest } } word)) := by
  cases hp : s.host.pending with
  | nil =>
    rw [step_of_nil hp] at h
    injection h with h
    exact .inl ⟨rfl, h.symm⟩
  | cons input rest =>
    rw [step_of_cons hp] at h
    refine .inr ⟨input, rest, rfl, ?_⟩
    cases input with
    | rst =>
      left
      refine ⟨rfl, ?_⟩
      injection h with h
      exact h.symm
    | secondHost word => cases h
    | access word =>
      right
      cases hd : decode word with
      | ok i =>
        left
        refine ⟨word, i, rfl, hd, ?_⟩
        simpa [runInput, runAccess, hd] using h
      | error e =>
        right
        cases e with
        | illegalCommand w =>
          cases word with
          | command x =>
            have hx : decodeCommand x = none ∧ x = w := by
              cases hc : decodeCommand x with
              | none => simp only [decode, hc] at hd; injection hd with hd; injection hd with hd; exact ⟨rfl, hd⟩
              | some c => simp [decode, hc] at hd
            obtain ⟨hx, rfl⟩ := hx
            refine ⟨x, rfl, hx, ?_⟩
            simp only [runInput, runAccess, hd] at h
            injection h with h
            exact h.symm
          | transaction hdr data =>
            cases hw : headerIsWrite hdr <;> cases data <;> simp [decode, hw] at hd
        | writeWithoutData => simp [runInput, runAccess, hd] at h
        | readWithData => simp [runInput, runAccess, hd] at h

end Machine
end Sys2Proof
end

