-- ==== Sys2Proof/Tests/Slice0.lean ====
section
/-! SUPPORT. Tests. Expected values come from the spec: the words from its encoding tables (rules R91, R98, R101), the
results from its test vectors (spec file 95, named in each comment). A theorem `test_witness_X` shows states and operands that
meet the hypotheses of the obligation X, at the edges of each clause; it does not restate what X concludes. -/

namespace Sys2Proof
namespace Tests

open Machine

/-- The state after reset, with other registers. -/
def st (b : Block) : State := { State.reset with block := b }

/-- The block after reset, with a frame in the buffer. -/
def framed (n : BitVec 3) (f0 f1 f2 f3 f4 : Byte) : Block :=
  { Block.reset with flen := n, frame0 := f0, frame1 := f1, frame2 := f2, frame3 := f3, frame4 := f4 }

/-- The block after reset, with operands of DSMP and TOPHYS. -/
def converting (c : BitVec 9) (raw : BitVec 18) : Block := { Block.reset with conf := c, raw := raw }

/-- The block after an outcome that goes on. -/
def after : Host.Outcome State Fault Refusal → Option Block
  | .next t => some t.block
  | .fault _ => none
  | .refused _ => none

/-- What the host has received after an outcome that goes on. -/
def got : Host.Outcome State Fault Refusal → Option (List Nat)
  | .next t => some t.host.received
  | .fault _ => none
  | .refused _ => none

/-- A faulted block: the state after `WR CMD, 0x08` (vector V-D1). -/
def faulted : Block := { Block.reset with status := 0x089#12 }

/-! Well-formedness: what each check refuses. -/

theorem test_refuses_illegal_command_words :
    (HostWord.command 0x08#8).wellFormed = false ∧ (HostWord.command 0x0E#8).wellFormed = false ∧
    (HostWord.command 0x1F#8).wellFormed = false ∧ (HostWord.command 0x0F#8).wellFormed = true := by decide

theorem test_refuses_write_without_data :
    (HostWord.transaction 0x10A#9 none).wellFormed = false ∧
    (HostWord.transaction 0x10A#9 (some 0)).wellFormed = true := by decide

theorem test_refuses_read_with_data :
    (HostWord.transaction 0x00A#9 (some 0)).wellFormed = false ∧
    (HostWord.transaction 0x00A#9 none).wellFormed = true := by decide

theorem test_refuses_frame_of_six_bytes :
    (PseudoInstr.ldframe [0, 0, 0, 0, 0, 0]).wellFormed = false ∧
    (PseudoInstr.ldframe [0, 0, 0, 0, 0]).wellFormed = true := by decide

/-! Decoding: every row of the opcode table, its word written out from rules R98 and R101. -/

theorem test_decode_commands :
    decodeTableWord 8 0b00000000 = some .nop ∧ decodeTableWord 8 0b00000001 = some .enc ∧
    decodeTableWord 8 0b00000010 = some .dcfg ∧ decodeTableWord 8 0b00000011 = some .loc ∧
    decodeTableWord 8 0b00000100 = some .dsmp ∧ decodeTableWord 8 0b00000101 = some .tophys ∧
    decodeTableWord 8 0b00000110 = some .frame ∧ decodeTableWord 8 0b00000111 = some .merge ∧
    decodeTableWord 8 0b00001111 = some .srst := by decide

theorem test_decode_rejects_illegal_commands :
    decodeTableWord 8 0x08 = none ∧ decodeTableWord 8 0x0E = none ∧ decodeTableWord 8 0x1F = none := by decide

/-- `WR PCONF, 0x2A` and `RD STATUS`: the write value stands above the 9 header bits. -/
theorem test_decode_transactions :
    decodeTableWord 16 (0b100001011 + 0x2A * 512) = some (.wr 0x0B#8 0x2A) ∧
    decodeTableWord 16 0b000000001 = some (.rd 0x01#8) := by decide

/-- Program P1, lines 1 and 3. -/
theorem test_encode_P1 :
    encode (.wr 0x0A#8 0x059) = .transaction 0x10A#9 (some 0x059) ∧
    encode (.rd 0x08#8) = .transaction 0x008#9 none := by decide

/-! Instructions. -/

/-- V-N1. -/
theorem test_nop_changes_nothing : (after (exec .nop (st (converting 0x059#9 0)))).map (·.conf) = some 0x059#9 := by decide

/-- V-N4. -/
theorem test_srst_leaves_faulted_state : (after (exec .srst (st faulted))).map (·.status) = some 0x000#12 := by decide

/-- V-N3. -/
theorem test_srst_clears_raw : (after (exec .srst (st (converting 0x059#9 0x1234#18)))).map (·.raw) = some 0#18 := by
  decide

/-- V-E3. -/
theorem test_enc_all_ones : (after (exec .enc (st (converting 0x19F#9 0)))).map (·.cfgbyte) = some 0xFF#8 := by decide

/-- V-E9: channel 5 does not wrap. -/
theorem test_enc_channel_five_faults : (after (exec .enc (st (converting 0x0A0#9 0)))).map (·.status) = some 0x01A#12 := by
  decide

/-- V-C3. -/
theorem test_dcfg_example :
    (after (exec .dcfg (st { Block.reset with cfgbyte := 0x9C#8 }))).map (·.conf) = some 0x13C#9 := by decide

/-- V-C7. -/
theorem test_dcfg_channel_four :
    (after (exec .dcfg (st { Block.reset with cfgbyte := 0x60#8 }))).map (·.conf) = some 0x080#9 := by decide

/-- V-M6: every SET bit but CHANNEL_SET. -/
theorem test_merge_ignores_unset_channel :
    (after (exec .merge (st { Block.reset with conf := 0x030#9, pconf := 0x37FF#14 }))).map (·.conf) = some 0x13F#9 := by
  decide

/-- V-M8. -/
theorem test_merge_channel_six_faults :
    (after (exec .merge (st { Block.reset with conf := 0x020#9, pconf := 0x0EED#14 }))).map (·.status) =
      some 0x07A#12 := by decide

/-- V-L5: the higher pair wins. -/
theorem test_loc_takes_marker :
    (after (exec .loc (st (framed 5#3 0x00#8 0x00#8 0x10#8 0x90#8 0x90#8)))).map (fun b => (b.cfgbyte, b.locidx)) =
      some (0x90#8, 3#3) := by decide

/-- V-L3. -/
theorem test_loc_three_bytes :
    (after (exec .loc (st (framed 3#3 0x12#8 0x34#8 0x18#8 0 0)))).map (·.status) = some 0x03C#12 := by decide

/-- V-S9. -/
theorem test_dsmp_drops_six_bits :
    (after (exec .dsmp (st { framed 3#3 0xAB#8 0xCD#8 0xEF#8 0 0 with conf := 0x03C#9 }))).map (·.raw) =
      some 0x3CDEF#18 := by decide

/-- V-S10: CONF is checked before FLEN. -/
theorem test_dsmp_conf_first :
    (after (exec .dsmp (st (framed 7#3 0 0 0 0 0)))).map (·.status) = some 0x04A#12 := by decide

/-- V-F13. -/
theorem test_frame_eighteen_bits :
    (after (exec .frame (st (framed 5#3 0xAB#8 0xCD#8 0xEF#8 0x5F#8 0xDF#8)))).map
      (fun b => (b.cfgbyte, b.locidx, b.conf, b.raw)) = some (0x5F#8, 3#3, 0x07F#9, 0x3CDEF#18) := by decide

/-- V-F5. -/
theorem test_frame_layout_fault :
    (after (exec .frame (st (framed 4#3 0x00#8 0x01#8 0x1C#8 0x9C#8 0)))).map (·.status) = some 0x06D#12 := by decide

/-- V-T15. -/
theorem test_tophys_negative_x2 :
    (after (exec .tophys (st (converting 0x029#9 0x08000#18)))).map (fun b => (b.signed, b.physDen)) =
      some (0x38000#18, 32000#19) := by decide

/-- V-T20. -/
theorem test_tophys_raw_too_wide :
    (after (exec .tophys (st (converting 0x038#9 0x10000#18)))).map (·.status) = some 0x05A#12 := by decide

/-- V-H4: a value one too large is a fault, not a truncation. -/
theorem test_wr_too_wide :
    (after (exec (.wr 0x02#8 8) (st Block.reset))).map (fun b => (b.flen, b.status)) = some (0#3, 0x02E#12) := by decide

/-- V-D6: 0x1F is not SRST. -/
theorem test_wr_cmd_1F : (after (exec (.wr 0x00#8 0x1F) (st Block.reset))).map (·.status) = some 0x1F9#12 := by decide

/-- V-H10. -/
theorem test_rd_unmapped :
    got (exec (.rd 0x10#8) (st Block.reset)) = some [0] ∧
    (after (exec (.rd 0x10#8) (st Block.reset))).map (·.status) = some 0x10E#12 := by decide

/-- V-H15: SIGNED is read as its pattern, here -1 as 0x3FFFF (program P2, line 12). -/
theorem test_rd_signed_pattern :
    got (exec (.rd 0x0D#8) (st { Block.reset with signed := 0x3FFFF#18 })) = some [0x3FFFF] := by decide

/-! Steps, pseudo-instructions and the environment. -/

/-- V-D3, as a command word: the step faults and goes on. -/
theorem test_step_illegal_word :
    (after (step ((st Block.reset).withFetchWord 8 0x10))).map (·.status) = some 0x109#12 := by decide

theorem test_step_idle : (after (step State.reset)).map (·.conf) = some 0x000#9 := by decide

/-- Program P7, lines 5 and 7. -/
theorem test_pseudo_instructions :
    expandPseudo (.ldframe [0x12#8, 0x34#8]) = [.wr 0x03#8 0x12, .wr 0x04#8 0x34, .wr 0x02#8 2] ∧
    expandPseudo (.setpconf none (some .bits14) none (some 2#3) none) = [.wr 0x0B#8 0xA28] ∧
    expandPseudo (.setconf false 2#3 .continuous .bits16 .x2) = [.wr 0x0A#8 0x059] := by decide

/-- W5. -/
theorem test_continuous_order : continuousOrder [1#3, 3#3] 4 = [1#3, 3#3, 1#3, 3#3, 1#3, 3#3, 1#3, 3#3] := by decide

/-- W7. -/
theorem test_device_reset : deviceReset = { address := 0x00, bytes := [0x06#8] } := by decide

/-- R68: three bytes are no frame of an 18-bit device (cfg 0x1C), and a longer frame must end in the marker 0x9C. -/
theorem test_read_frame_18_bits :
    readFrame 0x1C#8 [0x12#8, 0x34#8, 0x1C#8] = false ∧
    readFrame 0x1C#8 [0x12#8, 0x34#8, 0x56#8, 0x1C#8] = false ∧
    readFrame 0x1C#8 [0x12#8, 0x34#8, 0x56#8, 0x1C#8, 0x9C#8] = true ∧
    readFrame 0x1C#8 [0x12#8, 0x34#8, 0x1C#8, 0x55#8, 0x9C#8] = true := by decide

/-- R68, R95 at 16 bits (cfg 0x18, vectors V-F1 and V-F3). -/
theorem test_read_frame_16_bits :
    readFrame 0x18#8 [0x80#8, 0x00#8, 0x18#8] = true ∧ readFrame 0x18#8 [0x12#8, 0x34#8, 0x18#8, 0x98#8] = true ∧
    readFrame 0x18#8 [0x12#8, 0x34#8, 0x18#8, 0x18#8] = false ∧ readFrame 0x18#8 [0x12#8, 0x34#8] = false ∧
    readFrame 0x18#8 [0, 0, 0, 0, 0, 0x98#8] = false := by decide

/-! Witnesses: encoding and the step. -/

theorem test_witness_DecodeEncodeAgree : ∃ (word : HostWord) (i : Instr), decode word = .ok i := ⟨.command 0x0F#8, .srst, rfl⟩

theorem test_witness_CommandDecoderMap :
    (∃ w : Byte, w = 0x0F#8) ∧ (∃ w : Byte, w.toNat = 0x08 ∧ 0x08 ≤ w.toNat ∧ w.toNat ≤ 0x0E) ∧
    (∃ w : Byte, w.toNat = 0x0E ∧ 0x08 ≤ w.toNat ∧ w.toNat ≤ 0x0E) ∧ (∃ w : Byte, w.toNat = 0x10 ∧ 0x10 ≤ w.toNat) ∧
    ∃ w : Byte, w.toNat = 0xFF ∧ 0x10 ≤ w.toNat :=
  ⟨⟨_, rfl⟩, ⟨0x08#8, by decide⟩, ⟨0x0E#8, by decide⟩, ⟨0x10#8, by decide⟩, ⟨0xFF#8, by decide⟩⟩

theorem test_witness_PseudoInstructionExpansions :
    (∃ bytes : List Byte, bytes.length = 0 ∧ bytes.length ≤ 5) ∧ ∃ bytes : List Byte, bytes.length = 5 ∧ bytes.length ≤ 5 :=
  ⟨⟨[], by decide⟩, ⟨[0, 0, 0, 0, 0], by decide⟩⟩

theorem test_witness_StepRunsDecodedInstruction :
    ∃ (s : State) (word : HostWord) (rest : List HostInput) (i : Instr),
      s.host.pending = .access word :: rest ∧ decode word = .ok i :=
  ⟨State.reset.withFetchWord 8 0x01, .command 0x01#8, [], .enc, rfl, rfl⟩

theorem test_witness_SecondHostIsRefused :
    ∃ (s : State) (word : HostWord) (rest : List HostInput), s.host.pending = .secondHost word :: rest :=
  ⟨State.reset.issueNext (.secondHost (.command 0x01#8)), .command 0x01#8, [], rfl⟩

theorem test_witness_ResetRegisterValues :
    (∃ b : Block, b = { status := 0x000#12, flen := 0#3, frame0 := 0x00#8, frame1 := 0x00#8, frame2 := 0x00#8,
                        frame3 := 0x00#8, frame4 := 0x00#8, cfgbyte := 0x00#8, locidx := 0#3, conf := 0x000#9,
                        pconf := 0x0000#14, raw := 0x00000#18, signed := 0#18, physDen := 0#19,
                        physF := Config.physRound 0 }) ∧
    ∃ (s : State) (rest : List HostInput), s.host.pending = .rst :: rest :=
  ⟨⟨_, rfl⟩, (st faulted).issueNext .rst, [], rfl⟩

/-! Witnesses: host accesses. -/

theorem test_witness_BadReadReturnsZero :
    (∃ (a : HostAddr) (s : State), (a = 0x00#8 ∨ 0x10 ≤ a.toNat) ∧ s.block.err = false) ∧
    (∃ (a : HostAddr) (s : State), (a = 0x00#8 ∨ 0x10 ≤ a.toNat) ∧ a = 0x10#8 ∧ s.block.err = false) ∧
    ∃ (a : HostAddr) (s : State), (a = 0x00#8 ∨ 0x10 ≤ a.toNat) ∧ a = 0xFF#8 ∧ s.block.err = true :=
  ⟨⟨0x00#8, st Block.reset, by decide⟩, ⟨0x10#8, st Block.reset, by decide⟩, ⟨0xFF#8, st faulted, by decide⟩⟩

theorem test_witness_ReadValueFitsRegister :
    (∃ (a : HostAddr) (r : RegName), regAt a = some r ∧ a = 0x0F#8) ∧ ∃ a : HostAddr, regAt a = none ∧ a = 0x10#8 :=
  ⟨⟨0x0F#8, .physF, by decide⟩, ⟨0x10#8, by decide⟩⟩

theorem test_witness_WrStoresDataRegister :
    (∃ (s : State) (v : Nat), s.block.err = false ∧ v = 7 ∧ v < 8) ∧
    (∃ (s : State) (v : Nat), s.block.err = false ∧ v = 255 ∧ v < 256) ∧
    (∃ (s : State) (v : Nat), s.block.err = false ∧ v = 511 ∧ v < 512) ∧
    (∃ (s : State) (v : Nat), s.block.err = false ∧ v = 16383 ∧ v < 16384) ∧
    ∃ (s : State) (v : Nat), s.block.err = false ∧ v = 262143 ∧ v < 262144 :=
  ⟨⟨st Block.reset, 7, by decide⟩, ⟨st Block.reset, 255, by decide⟩, ⟨st Block.reset, 511, by decide⟩,
    ⟨st Block.reset, 16383, by decide⟩, ⟨st Block.reset, 262143, by decide⟩⟩

theorem test_witness_BadWriteFaults :
    ∃ s : State, s.block.err = false ∧
      (∃ a : HostAddr, a = 0x10#8 ∧ 0x10 ≤ a.toNat) ∧ (∃ a : HostAddr, a = 0xFF#8 ∧ 0x10 ≤ a.toNat) ∧
      (∃ a : HostAddr, a = 0x01#8 ∨ a = 0x09#8 ∨ a = 0x0D#8 ∨ a = 0x0E#8 ∨ a = 0x0F#8) ∧
      (∃ (a : HostAddr) (v : Nat), (a = 0x00#8 ∨ (0x03 ≤ a.toNat ∧ a.toNat ≤ 0x08)) ∧ 256 ≤ v ∧ a = 0x00#8) ∧
      (∃ (a : HostAddr) (v : Nat), (a = 0x00#8 ∨ (0x03 ≤ a.toNat ∧ a.toNat ≤ 0x08)) ∧ 256 ≤ v ∧ a = 0x08#8) ∧
      (∃ (a : HostAddr) (v : Nat), a = 0x02#8 ∧ 8 ≤ v) ∧ (∃ (a : HostAddr) (v : Nat), a = 0x0A#8 ∧ 512 ≤ v) ∧
      (∃ (a : HostAddr) (v : Nat), a = 0x0B#8 ∧ 16384 ≤ v) ∧ ∃ (a : HostAddr) (v : Nat), a = 0x0C#8 ∧ 262144 ≤ v :=
  ⟨st Block.reset, by decide, ⟨0x10#8, by decide⟩, ⟨0xFF#8, by decide⟩, ⟨0x0F#8, by decide⟩, ⟨0x00#8, 256, by decide⟩,
    ⟨0x08#8, 256, by decide⟩, ⟨0x02#8, 8, by decide⟩, ⟨0x0A#8, 512, by decide⟩, ⟨0x0B#8, 16384, by decide⟩,
    ⟨0x0C#8, 262144, by decide⟩⟩

theorem test_witness_WrCmdRunsCommand :
    ∃ s : State, s.block.err = false ∧
      (∃ v : Nat, v = 0x08 ∧ ((0x08 ≤ v ∧ v ≤ 0x0E) ∨ (0x10 ≤ v ∧ v < 0x100))) ∧
      (∃ v : Nat, v = 0x0E ∧ ((0x08 ≤ v ∧ v ≤ 0x0E) ∨ (0x10 ≤ v ∧ v < 0x100))) ∧
      (∃ v : Nat, v = 0x10 ∧ ((0x08 ≤ v ∧ v ≤ 0x0E) ∨ (0x10 ≤ v ∧ v < 0x100))) ∧
      ∃ v : Nat, v = 0xFF ∧ ((0x08 ≤ v ∧ v ≤ 0x0E) ∨ (0x10 ≤ v ∧ v < 0x100)) :=
  ⟨st Block.reset, by decide, ⟨0x08, by decide⟩, ⟨0x0E, by decide⟩, ⟨0x10, by decide⟩, ⟨0xFF, by decide⟩⟩

/-- Both formats of the access, a healthy and a faulted block, and a word of each range. -/
theorem test_witness_IllegalCommandWordFaults :
    (∃ (s : State) (word : Byte) (rest : List HostInput), s.host.pending = .access (.command word) :: rest ∧
      ((0x08 ≤ word.toNat ∧ word.toNat ≤ 0x0E) ∨ 0x10 ≤ word.toNat) ∧ s.block.err = false) ∧
    ∃ (s : State) (word : Byte) (rest : List HostInput),
      s.host.pending = .access (.transaction 0x100#9 (some word.toNat)) :: rest ∧
      ((0x08 ≤ word.toNat ∧ word.toNat ≤ 0x0E) ∨ 0x10 ≤ word.toNat) ∧ s.block.err = true :=
  ⟨⟨(st Block.reset).issueNext (.access (.command 0x08#8)), 0x08#8, [], rfl, by decide, by decide⟩,
    ⟨(st faulted).issueNext (.access (.transaction 0x100#9 (some 0x10))), 0x10#8, [], rfl, by decide, by decide⟩⟩

theorem test_witness_FaultedBlockIgnoresWrites :
    ∃ s : State, s.block.err = true ∧ (∃ (a : HostAddr) (v : Nat), ¬(a = 0x00#8 ∧ v = 0x0F) ∧ a = 0x00#8) ∧
      (∃ (a : HostAddr) (v : Nat), ¬(a = 0x00#8 ∧ v = 0x0F) ∧ v = 0x0F) ∧
      (∃ (a : HostAddr) (r : RegName), regAt a = some r ∧ r ≠ .cmd) ∧ ∃ a : HostAddr, a = 0x00#8 ∨ 0x10 ≤ a.toNat :=
  ⟨st faulted, by decide, ⟨0x00#8, 0x1F, by decide⟩, ⟨0x0A#8, 0x0F, by decide⟩, ⟨0x01#8, .status, by decide⟩,
    ⟨0x10#8, by decide⟩⟩

theorem test_witness_WrittenValueReadsBack :
    ∃ (s : State) (a : HostAddr) (r : RegName) (v : Nat), s.block.err = false ∧ regAt a = some r ∧ r ≠ .cmd ∧
      regWritable r = true ∧ v < 2 ^ regWidth r :=
  ⟨st Block.reset, 0x02#8, .flen, 7, by decide⟩

/-! Witnesses: the configuration-byte codec. -/

theorem test_witness_EncPacksConfiguration :
    (∃ s : State, s.block.err = false ∧ 1 ≤ s.block.conf.toNat / 32 % 8 ∧ s.block.conf.toNat / 32 % 8 ≤ 4) ∧
    (∃ s : State, s.block.err = false ∧ s.block.conf.toNat / 32 % 8 = 4 ∧ 1 ≤ s.block.conf.toNat / 32 % 8 ∧
      s.block.conf.toNat / 32 % 8 ≤ 4) ∧
    ∃ s : State, s.block.err = false ∧ ¬(1 ≤ s.block.conf.toNat / 32 % 8 ∧ s.block.conf.toNat / 32 % 8 ≤ 4) :=
  ⟨⟨st (converting 0x020#9 0), by decide⟩, ⟨st (converting 0x19F#9 0), by decide⟩,
    ⟨st (converting 0x0A0#9 0), by decide⟩⟩

theorem test_witness_DcfgUnpacksByte : ∃ s : State, s.block.err = false := ⟨st Block.reset, by decide⟩

/-- The base out of range; the override out of range; both in range; no channel override, with its value bits out of range. -/
theorem test_witness_MergeOverlaysSetFields :
    (∃ (s : State) (c : Nat), s.block.err = false ∧ c = s.block.conf.toNat ∧ ¬(1 ≤ c / 32 % 8 ∧ c / 32 % 8 ≤ 4)) ∧
    (∃ (s : State) (p : Nat), s.block.err = false ∧ p = s.block.pconf.toNat ∧ p / 2048 % 2 = 1 ∧
      ¬(1 ≤ p / 256 % 8 ∧ p / 256 % 8 ≤ 4)) ∧
    (∃ (s : State) (c p : Nat), s.block.err = false ∧ c = s.block.conf.toNat ∧ p = s.block.pconf.toNat ∧
      (1 ≤ c / 32 % 8 ∧ c / 32 % 8 ≤ 4) ∧ (p / 2048 % 2 = 1 → 1 ≤ p / 256 % 8 ∧ p / 256 % 8 ≤ 4) ∧ p / 2048 % 2 = 1) ∧
    ∃ (s : State) (c p : Nat), s.block.err = false ∧ c = s.block.conf.toNat ∧ p = s.block.pconf.toNat ∧
      (1 ≤ c / 32 % 8 ∧ c / 32 % 8 ≤ 4) ∧ (p / 2048 % 2 = 1 → 1 ≤ p / 256 % 8 ∧ p / 256 % 8 ≤ 4) ∧ p / 256 % 8 = 7 :=
  ⟨⟨st Block.reset, 0, by decide⟩, ⟨st { Block.reset with conf := 0x030#9, pconf := 0xD00#14 }, 0xD00, by decide⟩,
    ⟨st { Block.reset with conf := 0x030#9, pconf := 0xB00#14 }, 0x030, 0xB00, by decide⟩,
    ⟨st { Block.reset with conf := 0x030#9, pconf := 0x37FF#14 }, 0x030, 0x37FF, by decide⟩⟩

theorem test_witness_EncThenDcfgKeepsConf : ∃ s : State, s.block.err = false ∧ validConf s.block.conf = true :=
  ⟨st (converting 0x19F#9 0), by decide⟩

theorem test_witness_DcfgThenEncKeepsByte :
    ∃ s1 s2 t1 t2 : State, s1.block.err = false ∧ s2.block.err = false ∧ validConf s1.block.conf = true ∧
      validConf s2.block.conf = true ∧ exec .enc s1 = .next t1 ∧ exec .enc s2 = .next t2 ∧
      t1.block.cfgbyte = t2.block.cfgbyte :=
  ⟨st (converting 0x059#9 0), st (converting 0x059#9 1), _, _, by decide, by decide, by decide, by decide, rfl, rfl,
    by decide⟩

theorem test_witness_MergeTwiceIsOnce :
    ∃ s t : State, s.block.err = false ∧ exec .merge s = .next t ∧ t.block.err = false :=
  ⟨st { Block.reset with conf := 0x030#9, pconf := 0xB00#14 }, _, by decide, rfl, by decide⟩

/-! Witnesses: the sample-frame deserializer. -/

/-- Lengths 6 and 2; the pair at the end of five bytes; the lower pair of four bytes and of five; three bytes; no pair. -/
theorem test_witness_LocFindsMarkedByte :
    (∃ s : State, s.block.err = false ∧ s.block.flen.toNat = 6 ∧ 5 < s.block.flen.toNat) ∧
    (∃ s : State, s.block.err = false ∧ s.block.flen.toNat = 2 ∧ s.block.flen.toNat < 3) ∧
    (∃ s : State, s.block.err = false ∧ s.block.flen.toNat = 5 ∧ s.block.frame4 = s.block.frame3 ||| 0x80#8) ∧
    (∃ s : State, s.block.err = false ∧ s.block.flen.toNat = 4 ∧ s.block.frame3 = s.block.frame2 ||| 0x80#8) ∧
    (∃ s : State, s.block.err = false ∧ s.block.flen.toNat = 5 ∧ s.block.frame4 ≠ s.block.frame3 ||| 0x80#8 ∧
      s.block.frame3 = s.block.frame2 ||| 0x80#8) ∧
    (∃ s : State, s.block.err = false ∧ s.block.flen.toNat = 3) ∧
    (∃ s : State, s.block.err = false ∧ s.block.flen.toNat = 4 ∧ s.block.frame3 ≠ s.block.frame2 ||| 0x80#8) ∧
    ∃ s : State, s.block.err = false ∧ s.block.flen.toNat = 5 ∧ s.block.frame4 ≠ s.block.frame3 ||| 0x80#8 ∧
      s.block.frame3 ≠ s.block.frame2 ||| 0x80#8 :=
  ⟨⟨st (framed 6#3 0 0 0 0 0), by decide⟩, ⟨st (framed 2#3 0 0 0 0 0), by decide⟩,
    ⟨st (framed 5#3 0x01#8 0x23#8 0x45#8 0x1C#8 0x9C#8), by decide⟩,
    ⟨st (framed 4#3 0x12#8 0x34#8 0x18#8 0x98#8 0), by decide⟩,
    ⟨st (framed 5#3 0x12#8 0x34#8 0x18#8 0x98#8 0x00#8), by decide⟩, ⟨st (framed 3#3 0x12#8 0x34#8 0x18#8 0 0), by decide⟩,
    ⟨st (framed 4#3 0xFE#8 0x00#8 0x00#8 0x1C#8 0), by decide⟩,
    ⟨st (framed 5#3 0x12#8 0x34#8 0x10#8 0x55#8 0x90#8), by decide⟩⟩

/-- Bad CONF; length 6; lengths 1 and, for 18 bits, 2; lengths 3 and 5 for 18 bits; lengths 2 and 5 below. -/
theorem test_witness_DsmpAssemblesSample :
    (∃ (s : State) (c : Nat), s.block.err = false ∧ c = s.block.conf.toNat ∧ ¬(1 ≤ c / 32 % 8 ∧ c / 32 % 8 ≤ 4)) ∧
    (∃ (s : State) (n : Nat), s.block.err = false ∧ n = s.block.flen.toNat ∧ 5 < n) ∧
    (∃ (s : State) (n c : Nat), s.block.err = false ∧ n = s.block.flen.toNat ∧ c = s.block.conf.toNat ∧
      (1 ≤ c / 32 % 8 ∧ c / 32 % 8 ≤ 4) ∧ n < 2) ∧
    (∃ (s : State) (n c : Nat), s.block.err = false ∧ n = s.block.flen.toNat ∧ c = s.block.conf.toNat ∧
      (1 ≤ c / 32 % 8 ∧ c / 32 % 8 ≤ 4) ∧ n < 3 ∧ 2 ≤ n ∧ c / 4 % 4 = 3) ∧
    (∃ (s : State) (n c : Nat), s.block.err = false ∧ n = s.block.flen.toNat ∧ c = s.block.conf.toNat ∧
      (1 ≤ c / 32 % 8 ∧ c / 32 % 8 ≤ 4) ∧ c / 4 % 4 = 3 ∧ n = 3) ∧
    (∃ (s : State) (n c : Nat), s.block.err = false ∧ n = s.block.flen.toNat ∧ c = s.block.conf.toNat ∧
      (1 ≤ c / 32 % 8 ∧ c / 32 % 8 ≤ 4) ∧ c / 4 % 4 = 3 ∧ n = 5) ∧
    (∃ (s : State) (n c : Nat), s.block.err = false ∧ n = s.block.flen.toNat ∧ c = s.block.conf.toNat ∧
      (1 ≤ c / 32 % 8 ∧ c / 32 % 8 ≤ 4) ∧ c / 4 % 4 ≠ 3 ∧ n = 2) ∧
    ∃ (s : State) (n c : Nat), s.block.err = false ∧ n = s.block.flen.toNat ∧ c = s.block.conf.toNat ∧
      (1 ≤ c / 32 % 8 ∧ c / 32 % 8 ≤ 4) ∧ c / 4 % 4 ≠ 3 ∧ n = 5 :=
  ⟨⟨st Block.reset, 0, by decide⟩, ⟨st { framed 6#3 0 0 0 0 0 with conf := 0x03C#9 }, 6, by decide⟩,
    ⟨st { framed 1#3 0 0 0 0 0 with conf := 0x020#9 }, 1, 0x020, by decide⟩,
    ⟨st { framed 2#3 0 0 0 0 0 with conf := 0x03C#9 }, 2, 0x03C, by decide⟩,
    ⟨st { framed 3#3 0 0 0 0 0 with conf := 0x03C#9 }, 3, 0x03C, by decide⟩,
    ⟨st { framed 5#3 0 0 0 0 0 with conf := 0x03C#9 }, 5, 0x03C, by decide⟩,
    ⟨st { framed 2#3 0 0 0 0 0 with conf := 0x038#9 }, 2, 0x038, by decide⟩,
    ⟨st { framed 5#3 0 0 0 0 0 with conf := 0x080#9 }, 5, 0x080, by decide⟩⟩

/-- The faults as for LOC, then the three ways to a configuration byte, with and without a layout fault. -/
theorem test_witness_FrameDecodesWholeFrame :
    (∃ s : State, s.block.err = false ∧ s.block.flen.toNat = 6 ∧ 5 < s.block.flen.toNat) ∧
    (∃ s : State, s.block.err = false ∧ s.block.flen.toNat = 2 ∧ s.block.flen.toNat < 3) ∧
    (∃ s : State, s.block.err = false ∧ s.block.flen.toNat = 4 ∧ s.block.frame3 ≠ s.block.frame2 ||| 0x80#8) ∧
    (∃ s : State, s.block.err = false ∧ s.block.flen.toNat = 5 ∧ s.block.frame4 ≠ s.block.frame3 ||| 0x80#8 ∧
      s.block.frame3 ≠ s.block.frame2 ||| 0x80#8) ∧
    (∃ (s : State) (b : Byte), s.block.err = false ∧ s.block.flen.toNat = 3 ∧ b = s.block.frame2 ∧ b.toNat / 4 % 4 = 3) ∧
    (∃ (s : State) (b : Byte), s.block.err = false ∧ s.block.flen.toNat = 3 ∧ b = s.block.frame2 ∧ b.toNat / 4 % 4 ≠ 3) ∧
    (∃ (s : State) (b : Byte), s.block.err = false ∧ s.block.flen.toNat = 5 ∧ b = s.block.frame3 ∧
      s.block.frame4 = s.block.frame3 ||| 0x80#8 ∧ b.toNat / 4 % 4 = 3) ∧
    (∃ (s : State) (b : Byte), s.block.err = false ∧ s.block.flen.toNat = 5 ∧ b = s.block.frame3 ∧
      s.block.frame4 = s.block.frame3 ||| 0x80#8 ∧ b.toNat / 4 % 4 ≠ 3) ∧
    (∃ (s : State) (b : Byte), s.block.err = false ∧ s.block.flen.toNat = 4 ∧ b = s.block.frame2 ∧
      s.block.frame3 = s.block.frame2 ||| 0x80#8 ∧ b.toNat / 4 % 4 = 3) ∧
    (∃ (s : State) (b : Byte), s.block.err = false ∧ s.block.flen.toNat = 4 ∧ b = s.block.frame2 ∧
      s.block.frame3 = s.block.frame2 ||| 0x80#8 ∧ b.toNat / 4 % 4 ≠ 3) ∧
    ∃ (s : State) (b : Byte), s.block.err = false ∧ s.block.flen.toNat = 5 ∧ b = s.block.frame2 ∧
      s.block.frame4 ≠ s.block.frame3 ||| 0x80#8 ∧ s.block.frame3 = s.block.frame2 ||| 0x80#8 ∧ b.toNat / 4 % 4 ≠ 3 :=
  ⟨⟨st (framed 6#3 0 0 0 0 0), by decide⟩, ⟨st (framed 2#3 0 0 0 0 0), by decide⟩,
    ⟨st (framed 4#3 0xFE#8 0x00#8 0x00#8 0x1C#8 0), by decide⟩,
    ⟨st (framed 5#3 0x12#8 0x34#8 0x10#8 0x55#8 0x90#8), by decide⟩,
    ⟨st (framed 3#3 0x12#8 0x34#8 0x1C#8 0 0), 0x1C#8, by decide⟩,
    ⟨st (framed 3#3 0x80#8 0x00#8 0x18#8 0 0), 0x18#8, by decide⟩,
    ⟨st (framed 5#3 0x01#8 0x23#8 0x45#8 0x1C#8 0x9C#8), 0x1C#8, by decide⟩,
    ⟨st (framed 5#3 0x12#8 0x34#8 0x10#8 0x90#8 0x90#8), 0x90#8, by decide⟩,
    ⟨st (framed 4#3 0x00#8 0x01#8 0x1C#8 0x9C#8 0), 0x1C#8, by decide⟩,
    ⟨st (framed 4#3 0x12#8 0x34#8 0x18#8 0x98#8 0), 0x18#8, by decide⟩,
    ⟨st (framed 5#3 0x12#8 0x34#8 0x18#8 0x98#8 0x00#8), 0x18#8, by decide⟩⟩

/-- Success on five bytes and on three, and a fault (also for FrameIgnoresOldConfiguration). -/
theorem test_witness_FrameRefinesLocDcfgDsmp :
    (∃ s t : State, s.block.err = false ∧ exec .frame s = .next t ∧ t.block.err = false ∧ s.block.flen = 5#3) ∧
    (∃ s t : State, s.block.err = false ∧ exec .frame s = .next t ∧ t.block.err = false ∧ s.block.flen = 3#3) ∧
    ∃ s t : State, s.block.err = false ∧ exec .frame s = .next t ∧ t.block.err = true :=
  ⟨⟨st (framed 5#3 0x01#8 0x23#8 0x45#8 0x1C#8 0x9C#8), _, by decide, rfl, by decide, by decide⟩,
    ⟨st (framed 3#3 0x80#8 0x00#8 0x18#8 0 0), _, by decide, rfl, by decide, by decide⟩,
    ⟨st (framed 3#3 0x12#8 0x34#8 0x1C#8 0 0), _, by decide, rfl, by decide⟩⟩

theorem test_witness_FrameIgnoresOldConfiguration :
    ∃ s t : State, s.block.err = false ∧ exec .frame s = .next t ∧ t.block.err = false :=
  ⟨st { framed 3#3 0x80#8 0x00#8 0x18#8 0 0 with conf := 0x0A0#9 }, _, by decide, rfl, by decide⟩

/-- A command that reads the frame buffer, with two bytes changed beyond FLEN, and one that does not read it. -/
theorem test_witness_BytesBeyondFlenAreNotRead :
    (∃ (s s' t : State) (g : List Byte) (i : Instr),
      s' = { s with block := s.block.fillBeyond s.block.flen.toNat g } ∧ i = .frame ∧ exec i s = .next t ∧
      t.block.err = false ∧ s'.block.frame2 = s.block.frame2 ∧ s'.block.frame3 ≠ s.block.frame3 ∧
      s'.block.frame4 ≠ s.block.frame4) ∧
    ∃ (s s' t : State) (g : List Byte) (i : Instr),
      s' = { s with block := s.block.fillBeyond s.block.flen.toNat g } ∧ i = .dcfg ∧ exec i s = .next t ∧
      t.block.err = false ∧ s'.block.frame0 ≠ s.block.frame0 :=
  ⟨⟨st (framed 3#3 0x80#8 0x00#8 0x18#8 0 0), _, _, [1, 2, 3, 4, 5], .frame, rfl, rfl, rfl, by decide⟩,
    ⟨st Block.reset, _, _, [1], .dcfg, rfl, rfl, rfl, by decide⟩⟩

/-- A resolution below 18 bits, and 18 bits. -/
theorem test_witness_MarkerTakenAsConfigByte :
    (∃ (s : State) (m : Byte), s.block.err = false ∧ s.block.flen = 5#3 ∧ m = s.block.frame2 ||| 0x80#8 ∧
      s.block.frame3 = m ∧ s.block.frame4 = m ∧ s.block.frame2.toNat / 4 % 4 ≠ 3) ∧
    ∃ (s : State) (m : Byte), s.block.err = false ∧ s.block.flen = 5#3 ∧ m = s.block.frame2 ||| 0x80#8 ∧
      s.block.frame3 = m ∧ s.block.frame4 = m ∧ s.block.frame2.toNat / 4 % 4 = 3 :=
  ⟨⟨st (framed 5#3 0x12#8 0x34#8 0x10#8 0x90#8 0x90#8), 0x90#8, by decide⟩,
    ⟨st (framed 5#3 0x12#8 0x34#8 0x1C#8 0x9C#8 0x9C#8), 0x9C#8, by decide⟩⟩

/-- The frames of W4. -/
theorem test_witness_NoiseByteHidesConfigByte :
    (∃ s : State, s.block.err = false ∧ s.block.flen = 5#3 ∧ s.block.frame4 = s.block.frame2 ||| 0x80#8 ∧
      s.block.frame3.toNat % 128 ≠ s.block.frame2.toNat % 128) ∧
    ∃ s : State, s.block.err = false ∧ s.block.flen = 5#3 ∧ s.block.frame4 = s.block.frame2 ||| 0x80#8 ∧
      s.block.frame3.toNat % 128 = s.block.frame2.toNat % 128 :=
  ⟨⟨st (framed 5#3 0x12#8 0x34#8 0x1C#8 0x55#8 0x9C#8), by decide⟩,
    ⟨st (framed 5#3 0x12#8 0x34#8 0x1C#8 0x1C#8 0x9C#8), by decide⟩⟩

/-- No byte, and five bytes with FLEN written first. -/
theorem test_witness_FrameWritesPresentFrame :
    (∃ (s : State) (frame : List Byte) (lines : List Instr), s.block.err = false ∧ frame.length ≤ 5 ∧
      lines.Perm (expandPseudo (.ldframe frame)) ∧ frame.length = 0) ∧
    ∃ (s : State) (frame : List Byte) (lines : List Instr), s.block.err = false ∧ frame.length ≤ 5 ∧
      lines.Perm (expandPseudo (.ldframe frame)) ∧ frame.length = 5 ∧ lines.head? = some (.wr 0x02#8 5) :=
  ⟨⟨st Block.reset, [], [.wr 0x02#8 0], by decide, by decide, by decide, rfl⟩,
    ⟨st Block.reset, [1, 2, 3, 4, 5],
      [.wr 0x02#8 5, .wr 0x03#8 1, .wr 0x04#8 2, .wr 0x05#8 3, .wr 0x06#8 4, .wr 0x07#8 5],
      by decide, by decide, by decide, rfl, rfl⟩⟩

/-- A frame of six bytes is not presented, whatever FLEN says (rule R78). -/
theorem test_six_bytes_not_presented : ¬(framed 6#3 0 0 0 0 0).presents [0, 0, 0, 0, 0, 0] :=
  fun h => absurd h.1 (by decide)

/-- Three and four bytes at 16 bits (V-F1, V-F3), and five bytes at 18 (V-F2). -/
theorem test_witness_DeviceFramesDecode :
    (∃ (s : State) (c : Byte) (data : List Byte), s.block.err = false ∧
      data.length = (if c.toNat / 4 % 4 = 3 then 3 else 2) ∧ (c.toNat / 4 % 4 = 3 → false = true) ∧
      s.block.presents (deviceFrame c data false)) ∧
    (∃ (s : State) (c : Byte) (data : List Byte), s.block.err = false ∧
      data.length = (if c.toNat / 4 % 4 = 3 then 3 else 2) ∧ c.toNat / 4 % 4 ≠ 3 ∧
      s.block.presents (deviceFrame c data true)) ∧
    ∃ (s : State) (c : Byte) (data : List Byte), s.block.err = false ∧
      data.length = (if c.toNat / 4 % 4 = 3 then 3 else 2) ∧ c.toNat / 4 % 4 = 3 ∧
      s.block.presents (deviceFrame c data true) :=
  ⟨⟨st (framed 3#3 0x80#8 0x00#8 0x18#8 0 0), 0x18#8, [0x80#8, 0x00#8], by decide, by decide, by decide, by decide, by decide⟩,
    ⟨st (framed 4#3 0x12#8 0x34#8 0x18#8 0x98#8 0), 0x18#8, [0x12#8, 0x34#8], by decide, by decide, by decide, by decide,
      by decide⟩,
    ⟨st (framed 5#3 0x01#8 0x23#8 0x45#8 0x1C#8 0x9C#8), 0x1C#8, [0x01#8, 0x23#8, 0x45#8], by decide, by decide, by decide,
      by decide, by decide⟩⟩

/-! Witnesses: the conversion. -/

/-- Bad CONF; RAW one too large for 16 bits; the largest RAW of 16 bits and of 18. The obligation's other equations only name
values. -/
theorem test_witness_TophysConvertsSample :
    (∃ (s : State) (c : Nat), s.block.err = false ∧ c = s.block.conf.toNat ∧ ¬(1 ≤ c / 32 % 8 ∧ c / 32 % 8 ≤ 4)) ∧
    (∃ (s : State) (c raw w : Nat), s.block.err = false ∧ c = s.block.conf.toNat ∧ raw = s.block.raw.toNat ∧
      w = (if c / 4 % 4 = 3 then 18 else 16) ∧ 2 ^ w ≤ raw) ∧
    (∃ (s : State) (c raw w : Nat), s.block.err = false ∧ c = s.block.conf.toNat ∧ raw = s.block.raw.toNat ∧
      w = (if c / 4 % 4 = 3 then 18 else 16) ∧ (1 ≤ c / 32 % 8 ∧ c / 32 % 8 ≤ 4) ∧ raw < 2 ^ w ∧ w = 16) ∧
    ∃ (s : State) (c raw w : Nat), s.block.err = false ∧ c = s.block.conf.toNat ∧ raw = s.block.raw.toNat ∧
      w = (if c / 4 % 4 = 3 then 18 else 16) ∧ (1 ≤ c / 32 % 8 ∧ c / 32 % 8 ≤ 4) ∧ raw < 2 ^ w ∧ w = 18 :=
  ⟨⟨st Block.reset, 0, by decide⟩, ⟨st (converting 0x038#9 0x10000#18), 0x038, 0x10000, 16, by decide⟩,
    ⟨st (converting 0x020#9 0x0FFFF#18), 0x020, 0xFFFF, 16, by decide⟩,
    ⟨st (converting 0x03C#9 0x3FFFF#18), 0x03C, 0x3FFFF, 18, by decide⟩⟩

theorem test_witness_SignedOfIsTwosComplement :
    (∃ (res : Resolution) (w raw : Nat), w = (if res = .bits18 then 18 else 16) ∧ raw < 2 ^ w ∧ w = 18) ∧
    ∃ (res : Resolution) (w : Nat) (z : Int), w = (if res = .bits18 then 18 else 16) ∧ -2 ^ (w - 1) ≤ z ∧
      z < 2 ^ (w - 1) ∧ w = 16 :=
  ⟨⟨.bits18, 18, 0x20000, by decide⟩, ⟨.bits12, 16, -32768, by decide⟩⟩

/-- Also for PhysFApproximatesExactValue, whose other hypotheses the theorem after this one meets. -/
theorem test_witness_DenominatorTable :
    ∃ s t : State, s.block.err = false ∧ exec .tophys s = .next t ∧ t.block.err = false :=
  ⟨st (converting 0x02F#9 0x20000#18), _, by decide, rfl, by decide⟩

/-- Two different samples with one exact value, 1/4000 V, and a negative value. -/
theorem test_witness_PhysFApproximatesExactValue :
    (∃ (s t s' t' : State) (q : Rat), s.block.err = false ∧ exec .tophys s = .next t ∧ t.block.err = false ∧
      t.block.physValue = some q ∧ 0 < q ∧ s'.block.err = false ∧ exec .tophys s' = .next t' ∧ t'.block.err = false ∧
      t'.block.physValue = some q ∧ s'.block.raw ≠ s.block.raw) ∧
    ∃ (s t : State) (q : Rat), s.block.err = false ∧ exec .tophys s = .next t ∧ t.block.err = false ∧
      t.block.physValue = some q ∧ q < 0 :=
  ⟨⟨st (converting 0x024#9 1#18), _, st (converting 0x028#9 4#18), _, exactValue 1 4000, by decide, rfl, by decide, rfl,
      by norm_num [exactValue], by decide, rfl, by decide, by
        show some (exactValue 4 16000) = some (exactValue 1 4000); norm_num [exactValue], by decide⟩,
    ⟨st (converting 0x024#9 0x0FFFF#18), _, exactValue (-1) 4000, by decide, rfl, by decide, rfl,
      by norm_num [exactValue]⟩⟩

theorem test_witness_ZeroSampleGivesZero :
    ∃ s : State, s.block.err = false ∧ validConf s.block.conf = true ∧ s.block.raw = 0#18 :=
  ⟨st (converting 0x02F#9 0), by decide⟩

/-- The most negative samples of 16 and of 18 bits. -/
theorem test_witness_ExactValueRange :
    (∃ (s t : State) (q : Rat) (c w : Nat), s.block.err = false ∧ exec .tophys s = .next t ∧ t.block.err = false ∧
      t.block.physValue = some q ∧ c = s.block.conf.toNat ∧ w = (if c / 4 % 4 = 3 then 18 else 16) ∧
      s.block.raw.toNat = 2 ^ (w - 1) ∧ w = 16) ∧
    ∃ (s t : State) (q : Rat) (c w : Nat), s.block.err = false ∧ exec .tophys s = .next t ∧ t.block.err = false ∧
      t.block.physValue = some q ∧ c = s.block.conf.toNat ∧ w = (if c / 4 % 4 = 3 then 18 else 16) ∧
      s.block.raw.toNat = 2 ^ (w - 1) ∧ w = 18 :=
  ⟨⟨st (converting 0x020#9 0x08000#18), _, _, 0x020, 16, by decide, rfl, by decide, rfl, by decide⟩,
    ⟨st (converting 0x02F#9 0x20000#18), _, _, 0x02F, 18, by decide, rfl, by decide, rfl, by decide⟩⟩

/-- One count up, from -1 to 0. -/
theorem test_witness_ExactValueIsMonotonic :
    ∃ (s1 s2 t1 t2 : State) (q1 q2 : Rat), s1.block.err = false ∧ s2.block.err = false ∧
      s1.block.conf.toNat % 16 = s2.block.conf.toNat % 16 ∧ exec .tophys s1 = .next t1 ∧ exec .tophys s2 = .next t2 ∧
      t1.block.err = false ∧ t2.block.err = false ∧ t1.block.physValue = some q1 ∧ t2.block.physValue = some q2 ∧
      t1.block.signed.toInt < t2.block.signed.toInt ∧ t2.block.signed.toInt = t1.block.signed.toInt + 1 :=
  ⟨st (converting 0x02C#9 0x3FFFF#18), st (converting 0x05C#9 0#18), _, _, _, _, by decide, by decide, by decide, rfl, rfl,
    by decide, by decide, rfl, rfl, by decide, by decide⟩

theorem test_witness_TophysIgnoresChannelModeReady :
    ∃ (s t : State) (conf' : BitVec 9), s.block.err = false ∧ exec .tophys s = .next t ∧
      validConf s.block.conf = true ∧ validConf conf' = true ∧ s.block.conf.toNat % 16 = conf'.toNat % 16 ∧
      conf' ≠ s.block.conf :=
  ⟨st (converting 0x02C#9 5#18), _, 0x19C#9, by decide, rfl, by decide⟩

/-! Witnesses: the whole machine. -/

theorem test_witness_FaultEntryWritesStatus :
    (∃ (b : Block) (r : FaultReport) (code : Nat), code = (match r.cause with
      | .illegalCmd => 1 | .invalidArg => 2 | .frameShort => 3 | .frameNoMarker => 4 | .frameLayout => 5
      | .badAccess => 6) ∧ b.err = false) ∧
    ∃ (b : Block) (r : FaultReport) (code : Nat), code = (match r.cause with
      | .illegalCmd => 1 | .invalidArg => 2 | .frameShort => 3 | .frameNoMarker => 4 | .frameLayout => 5
      | .badAccess => 6) ∧ b.err = true :=
  ⟨⟨Block.reset, ⟨.illegalCmd, 0xFF#8⟩, 1, by decide⟩, ⟨faulted, ⟨.badAccess, 0x00#8⟩, 6, by decide⟩⟩

/-- Each clause: an instruction that goes on, one clause also by a fault. -/
theorem test_witness_InstructionsWriteOnlyTheirRegisters :
    ∃ s : State, (∀ i ∈ [Instr.nop, .enc, .dcfg, .loc, .dsmp, .tophys, .frame, .merge], ∃ t, exec i s = .next t) ∧
      (∃ (a : HostAddr) (t : State), exec (.rd a) s = .next t ∧ t.block.err = true) ∧
      ∃ (a : HostAddr) (v : Nat) (t : State), a ≠ 0x00#8 ∧ exec (.wr a v) s = .next t := by
  refine ⟨State.reset, ?_, ⟨0x10#8, _, rfl, by decide⟩, ⟨0x02#8, 5, _, by decide, rfl⟩⟩
  simp only [List.forall_mem_cons]
  exact ⟨⟨_, rfl⟩, ⟨_, rfl⟩, ⟨_, rfl⟩, ⟨_, rfl⟩, ⟨_, rfl⟩, ⟨_, rfl⟩, ⟨_, rfl⟩, ⟨_, rfl⟩, by simp⟩

theorem test_witness_FaultsArePrecise :
    ∃ (i : Instr) (s t : State), s.block.err = false ∧ exec i s = .next t ∧ t.block.err = true :=
  ⟨.frame, st (framed 3#3 0x12#8 0x34#8 0x1C#8 0 0), _, by decide, rfl, by decide⟩

/-- A step that faults, one that resets, and one that does neither. -/
theorem test_witness_OnlyFaultsWriteStatus :
    (∃ s t : State, step s = .next t ∧ s.block.err = false ∧ t.block.err = true) ∧
    (∃ s t : State, step s = .next t ∧ s.block.err = true ∧ t.block.err = false) ∧
    ∃ s t : State, step s = .next t ∧ s.block.err = false ∧ t.block.err = false :=
  ⟨⟨State.reset.withFetchWord 8 0x08, _, rfl, by decide, by decide⟩,
    ⟨(st faulted).withFetchWord 8 0x0F, _, rfl, by decide, by decide⟩,
    ⟨State.reset.withFetchWord 8 0x02, _, rfl, by decide, by decide⟩⟩

/-- A faulted block before each of the three inputs that reset it, and before ENC, the word 0x1F and nothing at all. -/
theorem test_witness_FirstFaultStaysUntilReset :
    ∃ b : Block, b.err = true ∧
      (∀ input : HostInput, input = .rst ∨ input = .access (.command 0x0F#8) ∨
          input = .access (.transaction 0x100#9 (some 0x0F)) →
        ((st b).issueNext input).host.pending = [input]) ∧
      (∀ w ∈ [0x01#8, 0x1F#8], ∃ t : State,
        (∀ (input : HostInput) (rest : List HostInput),
          ((st b).issueNext (.access (.command w))).host.pending = input :: rest →
          input ≠ .rst ∧ input ≠ .access (.command 0x0F#8) ∧ input ≠ .access (.transaction 0x100#9 (some 0x0F))) ∧
        step ((st b).issueNext (.access (.command w))) = .next t) ∧
      ∃ t : State, (st b).host.pending = [] ∧ step (st b) = .next t := by
  refine ⟨faulted, by decide, fun _ _ => rfl, fun w hw => ?_, _, rfl, rfl⟩
  have hne : w ≠ 0x0F#8 := by revert hw; revert w; decide
  refine ⟨st faulted, fun input rest h => ?_, ?_⟩
  · injection h with h _
    subst h
    exact ⟨by simp, by simpa using hne, by simp⟩
  · rcases List.mem_pair.mp hw with rfl | rfl <;> rfl

/-- A faulted block, whose STATUS is ILLEGAL_CMD with 0x08, meets the invariant, and a step of it is a next state (also for
ErrExactlyWhenCause). -/
theorem test_witness_StepKeepsInvariant : ∃ s t : State, s.Inv ∧ s.block.err = true ∧ step s = .next t :=
  ⟨(st faulted).withFetchWord 8 0x0F, _, ⟨.inr ⟨⟨.illegalCmd, 0x08#8⟩, by decide, by decide⟩, .inl (by decide),
    .inl ⟨by decide, by decide, rfl⟩⟩, by decide, rfl⟩

theorem test_witness_ErrExactlyWhenCause : ∃ s : State, s.Inv ∧ s.block.err = false :=
  ⟨st (framed 3#3 0x80#8 0x00#8 0x18#8 0 0), ⟨.inl (by decide), .inl (by decide), .inl ⟨by decide, by decide, rfl⟩⟩,
    by decide⟩

end Tests
end Sys2Proof
end

section
/-! SUPPORT for the proofs about the state. What a successful command leaves in the block, read backwards from its results,
and that every fault of a command or a write is one that rule R221 allows. -/

namespace Sys2Proof
namespace Machine

/-! A command that succeeds. -/

section
variable {b b' : Block}

theorem encBody_ok (h : encBody b = .ok b') : b' = { b with cfgbyte := encodeConf b.conf } := by
  rcases encBody_cases b with ⟨_, e⟩ | ⟨_, e⟩ <;> rw [e] at h <;> cases h
  rfl

theorem dcfgBody_ok (h : dcfgBody b = .ok b') : b' = { b with conf := decodeConf b.cfgbyte } :=
  (Except.ok.inj h).symm

theorem mergeBody_ok (h : mergeBody b = .ok b') : b' = { b with conf := mergeConf b.conf b.pconf } := by
  rcases mergeBody_cases b with ⟨_, e⟩ | ⟨_, _, e⟩ <;> rw [e] at h <;> cases h
  rfl

theorem locBody_ok (h : locBody b = .ok b') :
    ∃ j, (j = 2 ∨ j = 3) ∧ b' = { b with cfgbyte := b.frameAt j, locidx := BitVec.ofNat 3 j } := by
  rcases locBody_cases b with ⟨_, e⟩ | ⟨_, e⟩ | ⟨_, _, _, e⟩ | ⟨j, _, h5, hj, e⟩ <;> rw [e] at h <;> cases h
  exact ⟨j, b.locate_range h5 hj, rfl⟩

theorem dsmpBody_ok (h : dsmpBody b = .ok b') : b' = { b with raw := b.assemble (confResolution b.conf) } := by
  rcases dsmpBody_cases b with ⟨_, e⟩ | ⟨_, _, e⟩ | ⟨_, _, _, e⟩ <;> rw [e] at h <;> cases h
  rfl

theorem frameBody_ok (h : frameBody b = .ok b') :
    ∃ j, (j = 2 ∨ j = 3) ∧ b' = { b with
      cfgbyte := b.frameAt j, locidx := BitVec.ofNat 3 j, conf := decodeConf (b.frameAt j),
      raw := b.assemble (confResolution (decodeConf (b.frameAt j))) } := by
  rcases frameBody_cases b with
    ⟨_, e⟩ | ⟨_, e⟩ | ⟨_, _, _, e⟩ | ⟨_, _, _, _, _, e⟩ | ⟨j, _, h5, hj, _, e⟩ <;> rw [e] at h <;> cases h
  exact ⟨j, b.frameConfigIndex_range h5 hj, rfl⟩

theorem tophysBody_ok (h : tophysBody b = .ok b') :
    b.raw.toNat < 2 ^ nominalWidth (confResolution b.conf) ∧ b' = { b with
      signed := BitVec.ofInt 18 (signedOf b.raw.toNat (confResolution b.conf))
      physDen := BitVec.ofNat 19 (physDenominator (confResolution b.conf) (confGainOf b.conf))
      physF := Config.physRound (exactValue (signedOf b.raw.toNat (confResolution b.conf))
        (physDenominator (confResolution b.conf) (confGainOf b.conf))) } := by
  rcases tophysBody_cases b with ⟨_, e⟩ | ⟨_, hr, e⟩ <;> rw [e] at h <;> cases h
  exact ⟨hr, rfl⟩

/-- Only SRST among the commands touches STATUS when it succeeds (rule R39). -/
theorem commandBody_ok_status {c : Command} (hc : c ≠ .srst) (h : commandBody c b = .ok b') :
    b'.status = b.status := by
  cases c with
  | nop => cases h; rfl
  | enc => rw [encBody_ok h]
  | dcfg => rw [dcfgBody_ok h]
  | loc => obtain ⟨_, _, rfl⟩ := locBody_ok h; rfl
  | dsmp => rw [dsmpBody_ok h]
  | tophys => rw [(tophysBody_ok h).2]
  | frame => obtain ⟨_, _, rfl⟩ := frameBody_ok h; rfl
  | merge => rw [mergeBody_ok h]
  | srst => exact absurd rfl hc

end

/-! A command or a write that faults (rule R221). -/

section
variable {b : Block} {r : FaultReport}

theorem commandBody_error_legal {c : Command} (h : commandBody c b = .error r) : r.legal = true := by
  cases c with
  | nop => cases h
  | dcfg => cases h
  | srst => cases h
  | enc =>
    rcases encBody_cases b with ⟨_, e⟩ | ⟨_, e⟩ <;> cases e.symm.trans h
    rfl
  | merge =>
    rcases mergeBody_cases b with ⟨_, e⟩ | ⟨_, _, e⟩ <;> cases e.symm.trans h
    rfl
  | loc =>
    rcases locBody_cases b with ⟨_, e⟩ | ⟨_, e⟩ | ⟨_, _, _, e⟩ | ⟨_, _, _, _, e⟩ <;> cases e.symm.trans h <;> rfl
  | dsmp =>
    rcases dsmpBody_cases b with ⟨_, e⟩ | ⟨_, _, e⟩ | ⟨_, _, _, e⟩ <;> cases e.symm.trans h <;> rfl
  | frame =>
    rcases frameBody_cases b with
      ⟨_, e⟩ | ⟨_, e⟩ | ⟨_, _, _, e⟩ | ⟨_, _, _, _, _, e⟩ | ⟨_, _, _, _, _, e⟩ <;> cases e.symm.trans h <;> rfl
  | tophys =>
    rcases tophysBody_cases b with ⟨_, e⟩ | ⟨_, _, e⟩ <;> cases e.symm.trans h
    rfl

/-- ILLEGAL_CMD is raised for a word that is no command alone (rules R99, R227). -/
theorem illegalCmd_legal {word : Byte} (h : decodeCommand word = none) :
    FaultReport.legal ⟨.illegalCmd, word⟩ = true := by
  simp [FaultReport.legal, ← decodeCommand_isSome, h]

end

/-! Commands as instructions (rule R105). -/

/-- Every command but SRST runs its body, which the faulted block ignores (rules R125, R126). -/
theorem exec_instr {c : Command} (hc : c ≠ .srst) (s : State) :
    exec c.instr s = .next (s.runCommand (commandBody c)) := by
  cases c with
  | srst => exact absurd rfl hc
  | _ => rfl

/-- An instruction is a command, a write or a read. -/
theorem instr_command_or_access (i : Instr) : (∃ c : Command, i = c.instr) ∨ (∃ a v, i = .wr a v) ∨ ∃ a, i = .rd a := by
  cases i with
  | wr a v => exact .inr (.inl ⟨a, v, rfl⟩)
  | rd a => exact .inr (.inr ⟨a, rfl⟩)
  | nop => exact .inl ⟨.nop, rfl⟩
  | enc => exact .inl ⟨.enc, rfl⟩
  | dcfg => exact .inl ⟨.dcfg, rfl⟩
  | loc => exact .inl ⟨.loc, rfl⟩
  | dsmp => exact .inl ⟨.dsmp, rfl⟩
  | tophys => exact .inl ⟨.tophys, rfl⟩
  | frame => exact .inl ⟨.frame, rfl⟩
  | merge => exact .inl ⟨.merge, rfl⟩
  | srst => exact .inl ⟨.srst, rfl⟩

/-- A command that neither starts nor ends in the faulted state has its results. -/
theorem State.runCommand_succeeds {s : State} {body : Block → CommandResult} (he : s.block.err = false)
    (ht : (s.runCommand body).block.err = false) :
    ∃ b', body s.block = .ok b' ∧ s.runCommand body = { s with block := b' } := by
  rcases State.runCommand_cases s body with ⟨h, _⟩ | ⟨b', _, hb, h⟩ | ⟨r, _, _, h⟩
  · rw [he] at h; cases h
  · exact ⟨b', hb, h⟩
  · rw [h] at ht
    exact absurd (statusErr_faultStatus r) (ne_true_of_eq_false ht)

end Machine
end Sys2Proof
end

section
/-! SUPPORT for the proofs about the state. All that one step can do to the block's registers, said once: the claims about
STATUS and the invariant are case analyses over it. -/

namespace Sys2Proof
namespace Machine

/-- The block's registers before and after a step (rules R123 to R126, R226, R250): they stay, or take their reset values,
or, while ERR = 0, a legal fault is recorded, a value is stored, or a command other than SRST succeeds. -/
inductive BlockStep (b : Block) : Block → Prop where
  | keep : BlockStep b b
  | reset : BlockStep b Block.reset
  | fault (r : FaultReport) (healthy : b.err = false) (legal : r.legal = true) :
      BlockStep b { b with status := faultStatus r }
  | store (reg : RegName) (v : Nat) (healthy : b.err = false) : BlockStep b (b.writeReg reg v)
  | command (c : Command) (b' : Block) (healthy : b.err = false) (notSrst : c ≠ .srst)
      (result : commandBody c b = .ok b') : BlockStep b b'

section
variable {b : Block}

/-- Recording a fault is such a step, whether ERR is set or not (rule R230). -/
theorem BlockStep.raiseFault (b : Block) {r : FaultReport} (hr : r.legal = true) : BlockStep b (b.raiseFault r) := by
  cases he : b.err
  · rw [b.raiseFault_of_not_err r he]
    exact .fault r he hr
  · rw [b.raiseFault_of_err r he]
    exact .keep

theorem blockStep_commandBody (c : Command) (he : b.err = false) : BlockStep b (b.finish (commandBody c b)) := by
  cases h : commandBody c b with
  | error r => exact .raiseFault b (commandBody_error_legal h)
  | ok b' =>
    by_cases hc : c = .srst
    · subst hc
      cases h
      exact .reset
    · exact .command c b' he hc h

theorem blockStep_executeBody (word : Byte) (he : b.err = false) : BlockStep b (b.finish (executeBody word b)) := by
  rcases executeBody_cases word b with ⟨c, _, e⟩ | ⟨hd, e⟩ <;> rw [e]
  · exact blockStep_commandBody c he
  · exact .raiseFault b (illegalCmd_legal hd)

theorem blockStep_writeBody (a : HostAddr) (v : Nat) (he : b.err = false) :
    BlockStep b (b.finish (writeBody a v b)) := by
  rcases writeBody_cases a v b with ⟨_, e⟩ | ⟨_, _, e⟩ | ⟨r, _, _, _, _, e⟩ <;> rw [e]
  · exact .raiseFault b rfl
  · exact blockStep_executeBody _ he
  · exact .store r v he

end

section
variable {s t : State}

/-- Running a command is such a step if its end is one while ERR = 0. -/
theorem blockStep_runCommand {body : Block → CommandResult}
    (h : s.block.err = false → BlockStep s.block (s.block.finish (body s.block))) :
    BlockStep s.block (s.runCommand body).block := by
  cases he : s.block.err
  · rw [State.runCommand_of_not_err he]
    exact h he
  · rw [State.runCommand_of_err he]
    exact .keep

theorem exec_blockStep {i : Instr} (h : exec i s = .next t) : BlockStep s.block t.block := by
  rcases instr_command_or_access i with ⟨c, rfl⟩ | ⟨a, v, rfl⟩ | ⟨a, rfl⟩
  · by_cases hc : c = .srst
    · subst hc
      cases h
      exact .reset
    · cases (exec_instr hc s).symm.trans h
      exact blockStep_runCommand (blockStep_commandBody c)
  · rcases execWr_cases a v s with ⟨_, _, _, e⟩ | ⟨_, _, e⟩ | ⟨he, e⟩ <;> cases e.symm.trans h
    · exact .reset
    · exact .keep
    · exact blockStep_writeBody a v he
  · rcases execRd_cases a s with ⟨_, _, _, e⟩ | ⟨_, e⟩ <;> cases e.symm.trans h
    · exact .keep
    · exact .raiseFault s.block rfl

theorem step_blockStep (h : step s = .next t) : BlockStep s.block t.block := by
  rcases step_cases h with ⟨_, rfl⟩ | ⟨_, rest, _, hin⟩
  · exact .keep
  · rcases hin with ⟨_, rfl⟩ | ⟨_, _, _, _, he⟩ | ⟨word, _, _, rfl⟩
    · exact .reset
    · exact exec_blockStep (s := { s with host := { s.host with pending := rest } }) he
    · exact blockStep_runCommand (s := { s with host := { s.host with pending := rest } })
        (blockStep_executeBody word)

end

/-- A step keeps STATUS, or takes ERR from 0 to 1, or is a reset (rule R24). -/
theorem BlockStep.status_cases {b b' : Block} (h : BlockStep b b') :
    b'.status = b.status ∨ (b.err = false ∧ b'.err = true) ∨ b' = Block.reset := by
  cases h with
  | keep => exact .inl rfl
  | reset => exact .inr (.inr rfl)
  | fault r he _ => exact .inr (.inl ⟨he, statusErr_faultStatus r⟩)
  | store reg v _ => exact .inl (b.writeReg_status v reg)
  | command c b' _ hc hr => exact .inl (commandBody_ok_status hc hr)

/-! The invariant of the registers. -/

section
variable {b b' : Block}

/-- Two blocks with the same conversion registers meet their part of the invariant alike. -/
theorem Block.conversionLegal_of_eq (h : b.conversionLegal) (hs : b'.signed = b.signed)
    (hd : b'.physDen = b.physDen) (hf : b'.physF = b.physF) : b'.conversionLegal := by
  simpa only [Block.conversionLegal, hs, hd, hf] using h

/-- What TOPHYS writes is one consistent result (rules R33 to R36, R197). -/
theorem tophysBody_ok_conversionLegal (h : tophysBody b = .ok b') : b'.conversionLegal := by
  obtain ⟨hraw, rfl⟩ := tophysBody_ok h
  refine .inr ⟨confResolution b.conf, confGainOf b.conf, toNat_ofNat_physDenominator _ _, ?_⟩
  rw [toInt_ofInt_signedOf hraw, toNat_ofNat_physDenominator]
  exact ⟨(signedOf_range hraw).1, (signedOf_range hraw).2, rfl⟩

/-- Every index at which a configuration byte is found is one that LOCIDX may hold (rule R31). -/
theorem Block.locidxLegal_of_index {j : Nat} (hj : j = 2 ∨ j = 3) (h : b.locidx = BitVec.ofNat 3 j) :
    b.locidxLegal := by
  rcases hj with rfl | rfl
  · exact .inr (.inl h)
  · exact .inr (.inr h)

theorem commandBody_ok_locidxLegal {c : Command} (h : commandBody c b = .ok b') (hb : b.locidxLegal) :
    b'.locidxLegal := by
  cases c with
  | nop => cases h; exact hb
  | enc => rw [encBody_ok h]; exact hb
  | dcfg => rw [dcfgBody_ok h]; exact hb
  | loc => obtain ⟨j, hj, rfl⟩ := locBody_ok h; exact Block.locidxLegal_of_index hj rfl
  | dsmp => rw [dsmpBody_ok h]; exact hb
  | tophys => rw [(tophysBody_ok h).2]; exact hb
  | frame => obtain ⟨j, hj, rfl⟩ := frameBody_ok h; exact Block.locidxLegal_of_index hj rfl
  | merge => rw [mergeBody_ok h]; exact hb
  | srst => cases h; exact .inl rfl

theorem commandBody_ok_conversionLegal {c : Command} (h : commandBody c b = .ok b') (hb : b.conversionLegal) :
    b'.conversionLegal := by
  cases c with
  | nop => cases h; exact hb
  | enc => rw [encBody_ok h]; exact hb
  | dcfg => rw [dcfgBody_ok h]; exact hb
  | loc => obtain ⟨_, _, rfl⟩ := locBody_ok h; exact hb
  | dsmp => rw [dsmpBody_ok h]; exact hb
  | tophys => exact tophysBody_ok_conversionLegal h
  | frame => obtain ⟨_, _, rfl⟩ := frameBody_ok h; exact hb
  | merge => rw [mergeBody_ok h]; exact hb
  | srst => cases h; exact .inl ⟨rfl, rfl, rfl⟩

theorem Block.reset_inv : Block.reset.Inv := ⟨.inl rfl, .inl rfl, .inl ⟨rfl, rfl, rfl⟩⟩

theorem BlockStep.inv (h : BlockStep b b') (hb : b.Inv) : b'.Inv := by
  obtain ⟨hstatus, hlocidx, hconversion⟩ := hb
  cases h with
  | keep => exact ⟨hstatus, hlocidx, hconversion⟩
  | reset => exact Block.reset_inv
  | fault r _ hr => exact ⟨.inr ⟨r, hr, rfl⟩, hlocidx, hconversion⟩
  | store reg v _ =>
    exact ⟨by simpa [Block.statusLegal] using hstatus, by simpa [Block.locidxLegal] using hlocidx,
      Block.conversionLegal_of_eq hconversion (by simp) (by simp) (by simp)⟩
  | command c b' _ hc hr =>
    exact ⟨by simpa only [Block.statusLegal, commandBody_ok_status hc hr] using hstatus,
      commandBody_ok_locidxLegal hr hlocidx, commandBody_ok_conversionLegal hr hconversion⟩

end

/-- Settles O52: a step is a `BlockStep`, each of which keeps the three parts of the invariant. -/
theorem stepKeepsInvariant : Obligations.StepKeepsInvariant := by
  unfold Obligations.StepKeepsInvariant
  intro s t hs h
  exact (step_blockStep h).inv hs

/-- Settles O50: the cases of `BlockStep`. -/
theorem onlyFaultsWriteStatus : Obligations.OnlyFaultsWriteStatus := by
  unfold Obligations.OnlyFaultsWriteStatus
  intro s t h
  exact (step_blockStep h).status_cases

/-- Settles O53. -/
theorem resetMeetsInvariant : Obligations.ResetMeetsInvariant := Block.reset_inv

/-- Settles O54: CAUSE of a recorded fault is 1 to 6, and its ERR is 1. -/
theorem errExactlyWhenCause : Obligations.ErrExactlyWhenCause := by
  unfold Obligations.ErrExactlyWhenCause
  rintro s ⟨hstatus, _, _⟩
  rcases hstatus with h0 | ⟨r, _, hr⟩
  · simp [h0]
  · have hcode := r.cause.code_bounds
    have hnum := faultStatus_toNat r
    rw [hr]
    refine ⟨by omega, by omega, fun he => ?_⟩
    rw [Block.err, hr, statusErr_faultStatus] at he
    cases he

end Machine
end Sys2Proof
end

section
/-! The proofs about single accesses: reset values, the read-back of a store, and what each instruction may write. -/

namespace Sys2Proof
namespace Machine

/-- PHYS_F's reset value is the rounding of 0 (rule R196 (a)). -/
theorem physRound_zero : Config.physRound 0 = Config.physZero := Config.physFormat.meets.round_zero

/-- Settles O11. -/
theorem resetRegisterValues : Obligations.ResetRegisterValues := by
  unfold Obligations.ResetRegisterValues
  intro b hb
  rw [physRound_zero] at hb
  have hreset : Block.reset = b := hb.symm
  subst hreset
  exact ⟨rfl, fun s rest h => step_of_cons h, fun s => rfl⟩

/-- A read of a register that can be read (rule R121). -/
theorem execRd_of_regAt {a : HostAddr} {r : RegName} (h : regAt a = some r) (hr : r ≠ .cmd) (s : State) :
    execRd a s = .next (s.receive (s.block.readReg r)) := by
  rcases execRd_cases a s with ⟨r', h', _, e⟩ | ⟨h' | h', _⟩
  · cases h.symm.trans h'
    exact e
  · cases h.symm.trans h'
  · cases h.symm.trans h'
    exact absurd rfl hr

/-- Settles O23: the write stores the value, and the read returns what is stored. -/
theorem writtenValueReadsBack : Obligations.WrittenValueReadsBack := by
  unfold Obligations.WrittenValueReadsBack
  intro s a r v he ha hr hw hv
  refine ⟨_, execWr_of_store he ha hw hr hv, (execRd_of_regAt ha hr _).trans ?_⟩
  rw [Block.readReg_writeReg s.block hw hr hv]
  rfl

/-! Frames (rule R39). -/

section
variable {s t : State}

/-- All that a command other than SRST can leave (rules R125, R126, R226). -/
theorem exec_instr_cases {c : Command} (hc : c ≠ .srst) (h : exec c.instr s = .next t) :
    t = s ∨ (∃ b', commandBody c s.block = .ok b' ∧ t = { s with block := b' }) ∨
    ∃ r, commandBody c s.block = .error r ∧ t = { s with block := { s.block with status := faultStatus r } } := by
  cases (exec_instr hc s).symm.trans h
  rcases State.runCommand_cases s (commandBody c) with ⟨_, e⟩ | ⟨b', _, hb, e⟩ | ⟨r, _, hb, e⟩
  · exact .inl e
  · exact .inr (.inl ⟨b', hb, e⟩)
  · exact .inr (.inr ⟨r, hb, e⟩)

theorem exec_nop_frame (h : exec .nop s = .next t) : t = s := by
  rcases exec_instr_cases (c := .nop) nofun h with rfl | ⟨b', hb, rfl⟩ | ⟨r, hb, _⟩
  · rfl
  · cases hb; rfl
  · cases hb

theorem exec_enc_frame (h : exec .enc s = .next t) :
    t = { s with block := { s.block with status := t.block.status, cfgbyte := t.block.cfgbyte } } := by
  rcases exec_instr_cases (c := .enc) nofun h with rfl | ⟨b', hb, rfl⟩ | ⟨r, _, rfl⟩
  · rfl
  · rw [encBody_ok hb]
  · rfl

theorem exec_dcfg_frame (h : exec .dcfg s = .next t) :
    t = { s with block := { s.block with conf := t.block.conf } } := by
  rcases exec_instr_cases (c := .dcfg) nofun h with rfl | ⟨b', hb, rfl⟩ | ⟨r, hb, _⟩
  · rfl
  · rw [dcfgBody_ok hb]
  · cases hb

theorem exec_loc_frame (h : exec .loc s = .next t) :
    t = { s with block := { s.block with
      status := t.block.status, cfgbyte := t.block.cfgbyte, locidx := t.block.locidx } } := by
  rcases exec_instr_cases (c := .loc) nofun h with rfl | ⟨b', hb, rfl⟩ | ⟨r, _, rfl⟩
  · rfl
  · obtain ⟨_, _, rfl⟩ := locBody_ok hb; rfl
  · rfl

theorem exec_dsmp_frame (h : exec .dsmp s = .next t) :
    t = { s with block := { s.block with status := t.block.status, raw := t.block.raw } } := by
  rcases exec_instr_cases (c := .dsmp) nofun h with rfl | ⟨b', hb, rfl⟩ | ⟨r, _, rfl⟩
  · rfl
  · rw [dsmpBody_ok hb]
  · rfl

theorem exec_tophys_frame (h : exec .tophys s = .next t) :
    t = { s with block := { s.block with
      status := t.block.status, signed := t.block.signed, physDen := t.block.physDen,
      physF := t.block.physF } } := by
  rcases exec_instr_cases (c := .tophys) nofun h with rfl | ⟨b', hb, rfl⟩ | ⟨r, _, rfl⟩
  · rfl
  · obtain ⟨_, rfl⟩ := tophysBody_ok hb; rfl
  · rfl

theorem exec_frame_frame (h : exec .frame s = .next t) :
    t = { s with block := { s.block with
      status := t.block.status, cfgbyte := t.block.cfgbyte, locidx := t.block.locidx, conf := t.block.conf,
      raw := t.block.raw } } := by
  rcases exec_instr_cases (c := .frame) nofun h with rfl | ⟨b', hb, rfl⟩ | ⟨r, _, rfl⟩
  · rfl
  · obtain ⟨_, _, rfl⟩ := frameBody_ok hb; rfl
  · rfl

theorem exec_merge_frame (h : exec .merge s = .next t) :
    t = { s with block := { s.block with status := t.block.status, conf := t.block.conf } } := by
  rcases exec_instr_cases (c := .merge) nofun h with rfl | ⟨b', hb, rfl⟩ | ⟨r, _, rfl⟩
  · rfl
  · rw [mergeBody_ok hb]
  · rfl

theorem exec_rd_frame {a : HostAddr} (h : exec (.rd a) s = .next t) :
    t = { block := { s.block with status := t.block.status },
          host := { s.host with received := t.host.received } } := by
  rcases execRd_cases a s with ⟨_, _, _, e⟩ | ⟨_, e⟩ <;> cases e.symm.trans h
  · rfl
  · exact congrArg (State.mk · _) (s.block.raiseFault_frame _)

/-- All that a write to another address than CMD can leave: nothing changed, a fault, or one data register stored
(rules R123, R124, R126). -/
theorem exec_wr_data_cases {a : HostAddr} {v : Nat} (ha : a ≠ 0x00#8) (h : exec (.wr a v) s = .next t) :
    t = s ∨ (∃ r, t = { s with block := { s.block with status := faultStatus r } }) ∨
    ∃ r, a = regAddr r ∧ t = { s with block := s.block.writeReg r v } := by
  rcases execWr_cases a v s with ⟨_, h0, _, _⟩ | ⟨_, _, e⟩ | ⟨he, e⟩
  · exact absurd h0 ha
  · cases e.symm.trans h
    exact .inl rfl
  · cases e.symm.trans h
    rcases writeBody_cases a v s.block with ⟨_, e'⟩ | ⟨h0, _, _⟩ | ⟨r, hr, _, _, _, e'⟩
    · rw [e', Block.finish, Block.raiseFault_of_not_err _ _ he]
      exact .inr (.inl ⟨_, rfl⟩)
    · exact absurd h0 ha
    · rw [e']
      exact .inr (.inr ⟨r, regAt_some hr, rfl⟩)

end

/-- Settles O48: one frame lemma for each instruction. -/
theorem instructionsWriteOnlyTheirRegisters : Obligations.InstructionsWriteOnlyTheirRegisters := by
  unfold Obligations.InstructionsWriteOnlyTheirRegisters
  rintro s t _ rfl
  refine ⟨exec_nop_frame, exec_enc_frame, exec_dcfg_frame, exec_loc_frame, exec_dsmp_frame, exec_tophys_frame,
    exec_frame_frame, exec_merge_frame, fun a => exec_rd_frame, fun a v ha h => ?_⟩
  rcases exec_wr_data_cases ha h with rfl | ⟨r, rfl⟩ | ⟨r, rfl, rfl⟩
  · simp only [ite_self]
  · simp only [ite_self]
  · cases r <;> rfl

end Machine
end Sys2Proof
end

section
/-! The proof that no command reads FRAME[FLEN] to FRAME4 (rule R27): the scan, the sample and the configuration byte all come
from below FLEN, so each command's body commutes with replacing the bytes from FLEN on. -/

namespace Sys2Proof
namespace Machine

section
variable (b : Block) (n : Nat) (g : List Byte)

/-! `fillBeyond` writes the frame buffer alone. -/

@[simp] theorem Block.fillBeyond_flen : (b.fillBeyond n g).flen = b.flen := rfl

@[simp] theorem Block.fillBeyond_conf : (b.fillBeyond n g).conf = b.conf := rfl

@[simp] theorem Block.fillBeyond_pconf : (b.fillBeyond n g).pconf = b.pconf := rfl

@[simp] theorem Block.fillBeyond_raw : (b.fillBeyond n g).raw = b.raw := rfl

@[simp] theorem Block.fillBeyond_checkFlen (min : Nat) (op : Byte) :
    (b.fillBeyond n g).checkFlen min op = b.checkFlen min op := rfl

end

section
variable {b : Block} {n i j : Nat} (g : List Byte)

/-- The bytes below `n` stay. -/
theorem Block.fillBeyond_frameAt (h : i < n) : (b.fillBeyond n g).frameAt i = b.frameAt i := by
  rcases i with _ | _ | _ | _ | _ | i
  case succ.succ.succ.succ.succ => rfl
  all_goals exact if_neg (Nat.not_le.mpr h)

/-- The scan looks at no byte above its first marker index. -/
theorem Block.fillBeyond_scanFrom (h : i < n) : (b.fillBeyond n g).scanFrom i = b.scanFrom i := by
  induction i with
  | zero => rfl
  | succ i ih =>
    have hi : i < n := Nat.lt_of_succ_lt h
    rw [Block.scanFrom, Block.scanFrom, Block.fillBeyond_frameAt g h, Block.fillBeyond_frameAt g hi, ih hi]

/-- The scan reads the valid bytes alone (rule R162). -/
theorem Block.fillBeyond_locate (b : Block) : (b.fillBeyond b.flen.toNat g).locate = b.locate := by
  rw [Block.locate, Block.locate, Block.fillBeyond_flen]
  rcases Nat.eq_zero_or_pos b.flen.toNat with h0 | hpos
  · rw [h0]
    rfl
  · exact Block.fillBeyond_scanFrom g (Nat.sub_lt hpos one_pos)

theorem Block.fillBeyond_frameConfigIndex (b : Block) :
    (b.fillBeyond b.flen.toNat g).frameConfigIndex = b.frameConfigIndex := by
  rw [Block.frameConfigIndex, Block.frameConfigIndex, Block.fillBeyond_flen, Block.fillBeyond_locate]

/-- The sample is assembled from the payload alone (rule R170). -/
theorem Block.fillBeyond_assemble {res : Resolution} (h : payload res ≤ n) :
    (b.fillBeyond n g).assemble res = b.assemble res := by
  have hbyte (i : Nat) (hi : i < payload res) : (b.fillBeyond n g).frameAt i = b.frameAt i :=
    Block.fillBeyond_frameAt g (Nat.lt_of_lt_of_le hi h)
  have h0 : (b.fillBeyond n g).frame0 = b.frame0 := hbyte 0 (by cases res <;> decide)
  have h1 : (b.fillBeyond n g).frame1 = b.frame1 := hbyte 1 (by cases res <;> decide)
  cases res with
  | bits18 =>
    have h2 : (b.fillBeyond n g).frame2 = b.frame2 := hbyte 2 (by decide)
    simp only [Block.assemble, h0, h1, h2]
  | _ => simp only [Block.assemble, h0, h1]

theorem Block.scanFrom_lt (h : b.scanFrom i = some j) : j < i := by
  induction i with
  | zero => cases h
  | succ i ih =>
    rw [Block.scanFrom] at h
    split at h
    · cases h
    · split at h
      · cases h
        exact Nat.lt_succ_self j
      · exact Nat.lt_succ_of_lt (ih h)

/-- The configuration byte that the scan finds is one of the valid bytes (rule R162). -/
theorem Block.locate_lt (h : b.locate = some j) : j < b.flen.toNat :=
  Nat.lt_of_lt_of_le (Block.scanFrom_lt h) (Nat.sub_le _ _)

theorem Block.frameConfigIndex_lt (h : b.frameConfigIndex = some j) : j < b.flen.toNat := by
  rw [Block.frameConfigIndex] at h
  split at h
  · cases h
    omega
  · exact Block.locate_lt h

/-- A frame length that passes the check is long enough (rule R160). -/
theorem Block.le_flen_of_checkFlen {min : Nat} {op : Byte} (h : b.checkFlen min op = none) : min ≤ b.flen.toNat := by
  rcases b.checkFlen_cases min op with ⟨_, e⟩ | ⟨_, _, e⟩ | ⟨_, hmin, _⟩
  · cases e.symm.trans h
  · cases e.symm.trans h
  · exact hmin

end

section
variable (b : Block) (g : List Byte)

theorem locBody_fillBeyond :
    locBody (b.fillBeyond b.flen.toNat g) = (locBody b).map (·.fillBeyond b.flen.toNat g) := by
  simp only [locBody, Block.fillBeyond_checkFlen, Block.fillBeyond_locate]
  cases b.checkFlen 3 0x03#8 with
  | some r => rfl
  | none =>
    cases hl : b.locate with
    | none => rfl
    | some j =>
      simp only [Block.fillBeyond_frameAt g (Block.locate_lt hl)]
      rfl

theorem dsmpBody_fillBeyond :
    dsmpBody (b.fillBeyond b.flen.toNat g) = (dsmpBody b).map (·.fillBeyond b.flen.toNat g) := by
  rw [dsmpBody, dsmpBody, Block.fillBeyond_conf, Block.fillBeyond_checkFlen]
  split
  · rfl
  · cases hf : b.checkFlen (payload (confResolution b.conf)) 0x04#8 with
    | some r => rfl
    | none =>
      simp only [Block.fillBeyond_assemble g (Block.le_flen_of_checkFlen hf)]
      rfl

theorem frameBody_fillBeyond :
    frameBody (b.fillBeyond b.flen.toNat g) = (frameBody b).map (·.fillBeyond b.flen.toNat g) := by
  simp only [frameBody, Block.fillBeyond_checkFlen, Block.fillBeyond_frameConfigIndex]
  cases b.checkFlen 3 0x06#8 with
  | some r => rfl
  | none =>
    cases hl : b.frameConfigIndex with
    | none => rfl
    | some j =>
      have hj := Block.frameConfigIndex_lt hl
      simp only [Block.fillBeyond_frameAt g hj]
      split
      · rfl
      · next hp =>
        simp only [Block.fillBeyond_assemble g (Nat.le_trans (Nat.not_lt.mp hp) hj.le)]
        rfl

/-- Every command but SRST has the same results, or the same fault, whatever the bytes from FLEN on. -/
theorem commandBody_fillBeyond {c : Command} (hc : c ≠ .srst) :
    commandBody c (b.fillBeyond b.flen.toNat g) = (commandBody c b).map (·.fillBeyond b.flen.toNat g) := by
  cases c with
  | nop => rfl
  | dcfg => rfl
  | srst => exact absurd rfl hc
  | enc =>
    rw [commandBody, encBody, encBody, Block.fillBeyond_conf]
    split <;> rfl
  | merge =>
    rw [commandBody, mergeBody, mergeBody, Block.fillBeyond_conf, Block.fillBeyond_pconf]
    split
    · rfl
    · split <;> rfl
  | tophys =>
    rw [commandBody, tophysBody, tophysBody, Block.fillBeyond_conf, Block.fillBeyond_raw]
    split
    · rfl
    · split <;> rfl
  | loc => exact locBody_fillBeyond b g
  | dsmp => exact dsmpBody_fillBeyond b g
  | frame => exact frameBody_fillBeyond b g

end

theorem exec_instr_fillBeyond {c : Command} (hc : c ≠ .srst) {s t : State} (g : List Byte)
    (h : exec c.instr s = .next t) :
    exec c.instr { s with block := s.block.fillBeyond s.block.flen.toNat g } =
      .next { t with block := t.block.fillBeyond s.block.flen.toNat g } := by
  cases (exec_instr hc s).symm.trans h
  rw [exec_instr hc]
  have hfill := commandBody_fillBeyond s.block g hc
  congr 1
  rcases State.runCommand_cases s (commandBody c) with ⟨he, e⟩ | ⟨b', he, hb, e⟩ | ⟨r, he, hb, e⟩ <;> rw [e]
  · exact State.runCommand_of_err he
  · exact State.runCommand_of_ok he (by rw [hfill, hb]; rfl)
  · exact State.runCommand_of_error he (by rw [hfill, hb]; rfl)

/-- Settles O35: each command's body commutes with replacing the bytes, and SRST reads no register. -/
theorem bytesBeyondFlenAreNotRead : Obligations.BytesBeyondFlenAreNotRead := by
  unfold Obligations.BytesBeyondFlenAreNotRead
  rintro s _ g rfl
  refine ⟨fun t i hi h => ?_, rfl⟩
  have hcommand : ∃ c : Command, c ≠ .srst ∧ i = c.instr := by
    rcases instr_command_or_access i with ⟨c, rfl⟩ | ⟨a, v, rfl⟩ | ⟨a, rfl⟩
    · exact ⟨c, by rintro rfl; simp [Command.instr] at hi, rfl⟩
    · simp at hi
    · simp at hi
  obtain ⟨c, hc, rfl⟩ := hcommand
  exact exec_instr_fillBeyond hc g h

end Machine
end Sys2Proof
end

section
/-! The proof that PHYS_F approximates the exact value (rules R35, R196). -/

namespace Sys2Proof
namespace Machine

/-- A TOPHYS that does not fault leaves an exact value that rule R196 speaks of, and its rounding (rules R35, R195). -/
theorem exec_tophys_succeeds {s t : State} (hs : s.block.err = false) (h : exec .tophys s = .next t)
    (ht : t.block.err = false) :
    ∃ q, Config.IsPhysValue q ∧ t.block.physValue = some q ∧ t.block.physF = Config.physRound q := by
  cases h
  obtain ⟨b', hb, e⟩ := State.runCommand_succeeds hs ht
  obtain ⟨hraw, rfl⟩ := tophysBody_ok hb
  refine ⟨_, isPhysValue_signedOf (confGainOf s.block.conf) hraw, ?_, by rw [e]⟩
  have hden : BitVec.ofNat 19 (physDenominator (confResolution s.block.conf) (confGainOf s.block.conf)) ≠ 0 := by
    intro h0
    have hnum := toNat_ofNat_physDenominator (confResolution s.block.conf) (confGainOf s.block.conf)
    have hpos := (physDenominator_bounds (confResolution s.block.conf) (confGainOf s.block.conf)).1
    rw [← hnum, h0] at hpos
    exact absurd hpos (by decide)
  rw [e, Block.physValue, if_neg hden, toInt_ofInt_signedOf hraw, toNat_ofNat_physDenominator]

/-- Settles O41: PHYS_F is the rounding of the exact value, and the format meets rule R196. -/
theorem physFApproximatesExactValue : Obligations.PhysFApproximatesExactValue := by
  unfold Obligations.PhysFApproximatesExactValue
  intro s t hs h ht
  obtain ⟨q, hq, hvalue, hround⟩ := exec_tophys_succeeds hs h ht
  have hmeets := Config.physFormat.meets
  rw [hround]
  refine ⟨q, hvalue, hmeets.round_close q hq, hmeets.round_pos q hq, hmeets.round_neg q hq, ?_, ?_⟩
  · rintro rfl
    exact physRound_zero
  · intro s' t' hs' h' ht' hvalue'
    obtain ⟨q', _, hq', hround'⟩ := exec_tophys_succeeds hs' h' ht'
    cases hq'.symm.trans hvalue'
    exact hround'

end Machine
end Sys2Proof
end

section
/-! The proofs about what the host sees of the block: a step runs the access that it takes, a read returns the register
of its address, and which lists of bytes are read frames. -/

namespace Sys2Proof
namespace Machine

/-- Settles O7. -/
theorem stepRunsDecodedInstruction : Obligations.StepRunsDecodedInstruction := by
  unfold Obligations.StepRunsDecodedInstruction
  intro s word rest i hpending hdecode
  rw [step_of_cons hpending, runInput, runAccess, hdecode]

/-- Settles O15, register by register of rule R62. -/
theorem rdReturnsRegister : Obligations.RdReturnsRegister := by
  unfold Obligations.RdReturnsRegister
  intro s
  have hread (r : RegName) (hr : r ≠ .cmd) : exec (.rd (regAddr r)) s = .next (s.receive (s.block.readReg r)) :=
    execRd_of_regAt (regAt_regAddr r) hr s
  exact ⟨hread .status nofun, hread .flen nofun, hread .frame0 nofun, hread .frame1 nofun, hread .frame2 nofun,
    hread .frame3 nofun, hread .frame4 nofun, hread .cfgbyte nofun, hread .locidx nofun, hread .conf nofun,
    hread .pconf nofun, hread .raw nofun, hread .signed nofun, hread .physDen nofun, hread .physF nofun⟩

/-- A self-identifying read frame as what stands before its marker (rules R68, R94). -/
theorem selfIdentifyingReadFrame_iff_append (c : Byte) (frame : List Byte) :
    selfIdentifyingReadFrame c frame = true ↔
      ∃ front : List Byte, frame = front ++ [markerOf c] ∧ (front.length = 3 ∨ front.length = 4) := by
  rw [selfIdentifyingReadFrame_iff, List.getLast?_eq_some_iff]
  constructor
  · rintro ⟨hlen, front, rfl⟩
    rw [List.length_append, List.length_singleton] at hlen
    exact ⟨front, rfl, by omega⟩
  · rintro ⟨front, rfl, hlen⟩
    rw [List.length_append, List.length_singleton]
    exact ⟨by omega, front, rfl⟩

/-- Settles O56. -/
theorem readFrameForms : Obligations.ReadFrameForms := by
  unfold Obligations.ReadFrameForms
  intro c frame
  rw [readFrame, Bool.or_eq_true, plainReadFrame_iff, selfIdentifyingReadFrame_iff_append, Ne, deviceResolution_bits18]
  rfl

end Machine
end Sys2Proof
end

section
/-! The proof that FRAME decodes what a device returns (rules R95, R165): the layout puts the configuration byte right after
the payload, so that FRAME finds it there, and the payload has the size that this byte asks for. -/

namespace Sys2Proof
namespace Machine

/-- The CONF value of a configuration byte, from its number (rules R91, R141). -/
theorem decodeConf_eq_ofNat (c : Byte) :
    decodeConf c = BitVec.ofNat 9 (c.toNat / 128 * 256 + (c.toNat / 32 % 4 + 1) * 32 + c.toNat % 32) := by
  rw [← decodeConf_toNat, BitVec.ofNat_toNat, BitVec.setWidth_eq]

/-- The payload size that a configuration byte asks for (rules R91, R161). -/
theorem payload_deviceResolution (c : Byte) :
    payload (deviceResolution c) = if c.toNat / 4 % 4 = 3 then 3 else 2 := by
  have hcode : (decodeConf c).toNat / 4 % 4 = c.toNat / 4 % 4 := by
    rw [decodeConf_toNat]
    omega
  rw [deviceResolution, payload_eq, hcode]

/-- The payload at 12, 14 and 16 bits (rule R161). -/
theorem payload_of_ne_bits18 {res : Resolution} (h : res ≠ .bits18) : payload res = 2 := by
  cases res with
  | bits18 => exact absurd rfl h
  | _ => rfl

theorem payload_range (res : Resolution) : payload res = 2 ∨ payload res = 3 := by
  cases res <;> simp [payload]

/-- FRAME with its checks passed (rule R165). -/
theorem frameBody_of_index {b : Block} {j : Nat} (h3 : 3 ≤ b.flen.toNat) (h5 : b.flen.toNat ≤ 5)
    (hj : b.frameConfigIndex = some j) (hp : payload (deviceResolution (b.frameAt j)) ≤ j) :
    frameBody b = .ok { b with
      cfgbyte := b.frameAt j, locidx := BitVec.ofNat 3 j, conf := decodeConf (b.frameAt j),
      raw := b.assemble (deviceResolution (b.frameAt j)) } := by
  rcases frameBody_cases b with ⟨h, _⟩ | ⟨h, _⟩ | ⟨_, _, h, _⟩ | ⟨j', _, _, h, hlt, _⟩ | ⟨j', _, _, h, _, e⟩
  · omega
  · omega
  · cases h.symm.trans hj
  · cases h.symm.trans hj
    exact absurd hlt (Nat.not_lt.mpr hp)
  · cases h.symm.trans hj
    exact e

/-- The scan stops at a pair of a byte and its marker (rule R162). -/
theorem Block.scanFrom_of_marker {b : Block} {i : Nat} (hi : 2 ≤ i)
    (h : b.frameAt (i + 1) = markerOf (b.frameAt i)) :
    b.scanFrom (i + 1) = some i := by
  rw [Block.scanFrom, if_neg (by omega), if_pos h]

/-- The sample is the payload as a big-endian number, in 18 bits (rules R96, R170). -/
theorem Block.assemble_eq_ofNat_foldl {b : Block} {res : Resolution} {data : List Byte}
    (hlen : data.length = payload res) (hdata : ∀ (i : Nat) (h : i < data.length), b.frameAt i = data[i]) :
    b.assemble res = BitVec.ofNat 18 (data.foldl (fun n x => n * 256 + x.toNat) 0) := by
  apply BitVec.eq_of_toNat_eq
  rw [assemble_toNat, BitVec.toNat_ofNat]
  by_cases hres : res = .bits18
  · subst hres
    obtain ⟨x0, x1, x2, rfl⟩ := List.length_eq_three.mp hlen
    have h0 : b.frame0 = x0 := hdata 0 (by simp)
    have h1 : b.frame1 = x1 := hdata 1 (by simp)
    have h2 : b.frame2 = x2 := hdata 2 (by simp)
    rw [if_pos rfl, h0, h1, h2]
    simp only [List.foldl_cons, List.foldl_nil]
    omega
  · obtain ⟨x0, x1, rfl⟩ := List.length_eq_two.mp (hlen.trans (payload_of_ne_bits18 hres))
    have h0 : b.frame0 = x0 := hdata 0 (by simp)
    have h1 : b.frame1 = x1 := hdata 1 (by simp)
    rw [if_neg hres, h0, h1]
    simp only [List.foldl_cons, List.foldl_nil]
    omega

section
variable {b : Block} {c : Byte} {data : List Byte} {selfIdentifying : Bool}

/-- The payload, the configuration byte, and the marker if there is one (rule R95). -/
theorem deviceFrame_length :
    (deviceFrame c data selfIdentifying).length = data.length + 1 + selfIdentifying.toNat := by
  cases selfIdentifying <;> simp [deviceFrame, Nat.add_assoc]

/-- The frame that a device returns is a read frame (rules R68, R95). -/
theorem readFrame_deviceFrame (hlen : data.length = payload (deviceResolution c))
    (hself : deviceResolution c = .bits18 → selfIdentifying = true) :
    readFrame c (deviceFrame c data selfIdentifying) = true := by
  rw [readFrame, Bool.or_eq_true, plainReadFrame_iff, selfIdentifyingReadFrame_iff_append]
  cases selfIdentifying with
  | false =>
    have hres : deviceResolution c ≠ .bits18 := fun h => nomatch hself h
    exact .inl ⟨by rw [deviceFrame_length, hlen, payload_of_ne_bits18 hres]; rfl, hres⟩
  | true =>
    refine .inr ⟨data ++ [c], by simp [deviceFrame], ?_⟩
    rw [List.length_append, hlen]
    exact (payload_range _).imp (congrArg (· + 1)) (congrArg (· + 1))

/-! What a buffer that presents such a frame holds. -/

variable (h : b.presents (deviceFrame c data selfIdentifying))
include h

/-- The payload comes first (rule R95). -/
theorem Block.frameAt_payload_of_presents {i : Nat} (hi : i < data.length) : b.frameAt i = data[i] := by
  rw [b.presents_frameAt h (by rw [deviceFrame_length]; omega)]
  exact List.getElem_append_left hi

/-- The configuration byte follows the payload (rule R95). -/
theorem Block.frameAt_config_of_presents : b.frameAt data.length = c := by
  rw [b.presents_frameAt h (by rw [deviceFrame_length]; omega)]
  simp [deviceFrame]

/-- FRAME finds the configuration byte right after the payload: at index 2 of 3 bytes, and before its marker otherwise
(rule R165). -/
theorem Block.frameConfigIndex_of_presents (hlen : data.length = payload (deviceResolution c))
    (hself : deviceResolution c = .bits18 → selfIdentifying = true) : b.frameConfigIndex = some data.length := by
  have hflen := Block.presents_flen h
  have hconfig := Block.frameAt_config_of_presents h
  rw [deviceFrame_length] at hflen
  have hrange := payload_range (deviceResolution c)
  rw [← hlen] at hrange
  cases selfIdentifying with
  | false =>
    have hres : deviceResolution c ≠ .bits18 := fun h => nomatch hself h
    have h2 : data.length = 2 := hlen.trans (payload_of_ne_bits18 hres)
    rw [Block.frameConfigIndex, if_pos (by rw [hflen, h2]; rfl), h2]
  | true =>
    have hmarker : b.frameAt (data.length + 1) = markerOf (b.frameAt data.length) := by
      rw [hconfig, b.presents_frameAt h (by rw [deviceFrame_length]; simp)]
      simp [deviceFrame]
    rw [Bool.toNat_true] at hflen
    rw [Block.frameConfigIndex, if_neg (by omega), Block.locate, hflen]
    exact Block.scanFrom_of_marker (by omega) hmarker

end

/-- Settles O55: the configuration byte is at the index of the payload's length, and asks for a payload of that length. -/
theorem deviceFramesDecode : Obligations.DeviceFramesDecode := by
  unfold Obligations.DeviceFramesDecode
  intro s c data selfIdentifying he hlen hself h
  rw [← payload_deviceResolution] at hlen
  rw [← deviceResolution_bits18] at hself
  refine ⟨readFrame_deviceFrame hlen hself, ?_⟩
  have hflen := Block.presents_flen h
  have h5 := Block.presents_length_le h
  rw [deviceFrame_length] at hflen h5
  have hrange := payload_range (deviceResolution c)
  have hconfig := Block.frameAt_config_of_presents h
  have hbody := frameBody_of_index (by omega) (by omega) (Block.frameConfigIndex_of_presents h hlen hself)
    (by rw [hconfig, hlen])
  have hraw := Block.assemble_eq_ofNat_foldl hlen fun i => Block.frameAt_payload_of_presents h
  rw [hconfig, hraw, decodeConf_eq_ofNat] at hbody
  exact congrArg _ (State.runCommand_of_ok he hbody)

end Machine
end Sys2Proof
end

section
/-! The proof that the writes of a frame present it in every order (rule R78): stores to different registers commute, so every
order leaves what program order leaves. -/

namespace Sys2Proof
namespace Machine

/-! Stores as register and value. -/

/-- The line that stores a value in a register (rule R105). -/
def storeLine (p : RegName × Nat) : Instr := writeLine p.1 p.2

/-- What that line leaves in a block that takes it (rule R123). -/
def Block.store (b : Block) (p : RegName × Nat) : Block := b.writeReg p.1 p.2

/-- The line is neither a command nor a bad write (rules R123, R124). -/
def Storable (p : RegName × Nat) : Prop := regWritable p.1 = true ∧ p.1 ≠ .cmd ∧ p.2 < 2 ^ regWidth p.1

/-- Stores to different registers commute. -/
theorem Block.writeReg_comm (b : Block) {r r' : RegName} (h : r ≠ r') (v w : Nat) :
    (b.writeReg r v).writeReg r' w = (b.writeReg r' w).writeReg r v := by
  cases r <;> cases r' <;> first | rfl | exact absurd rfl h

/-- Stores that name each register once leave the same block in every order. -/
theorem Block.foldl_store_perm {stores stores' : List (RegName × Nat)} (h : stores.Perm stores')
    (hnodup : (stores.map Prod.fst).Nodup) (b : Block) : stores.foldl Block.store b = stores'.foldl Block.store b := by
  refine h.foldl_eq' (fun p hp q hq b => ?_) b
  by_cases heq : p.1 = q.1
  · rw [List.inj_on_of_nodup_map hnodup hp hq heq]
  · exact b.writeReg_comm heq p.2 q.2

/-- A program of stores goes on, store after store (rules R73, R123). -/
theorem execAll_map_storeLine {stores : List (RegName × Nat)} {s : State} (he : s.block.err = false)
    (hstores : ∀ p ∈ stores, Storable p) :
    execAll (stores.map storeLine) s = .next { s with block := stores.foldl Block.store s.block } := by
  induction stores generalizing s with
  | nil => rfl
  | cons p rest ih =>
    obtain ⟨hp, hrest⟩ := List.forall_mem_cons.mp hstores
    obtain ⟨hwritable, hcmd, hfits⟩ := hp
    have hexec : exec (storeLine p) s = .next { s with block := s.block.store p } :=
      execWr_of_store he (regAt_regAddr p.1) hwritable hcmd hfits
    rw [List.map_cons, execAll_cons_of_next hexec]
    exact ih ((Block.writeReg_err _ _ _).trans he) hrest

/-! The stores of LDFRAME (rule R106). -/

/-- LDFRAME's stores, in program order. -/
def frameStores (frame : List Byte) : List (RegName × Nat) :=
  frameRegs.zip (frame.map (·.toNat)) ++ [(.flen, frame.length)]

theorem expandPseudo_ldframe (frame : List Byte) :
    expandPseudo (.ldframe frame) = (frameStores frame).map storeLine := by
  simp [expandPseudo, frameStores, frameWrites, storeLine, List.map_zip_eq_zipWith, List.zipWith_map_right]

/-- Every byte fits its register, and the length of a frame that can be presented fits FLEN (rules R26, R27, R78). -/
theorem frameStores_storable {frame : List Byte} (h : frame.length ≤ 5) : ∀ p ∈ frameStores frame, Storable p := by
  intro p hp
  rcases List.mem_append.mp hp with hbyte | hflen
  · obtain ⟨hreg, hval⟩ := List.of_mem_zip hbyte
    obtain ⟨x, -, hx⟩ := List.mem_map.mp hval
    have hwidth : ∀ r ∈ frameRegs, regWritable r = true ∧ r ≠ .cmd ∧ regWidth r = 8 := by decide
    obtain ⟨hwritable, hcmd, h8⟩ := hwidth p.1 hreg
    exact ⟨hwritable, hcmd, by rw [h8, ← hx]; exact x.isLt⟩
  · rw [List.mem_singleton.mp hflen]
    exact ⟨rfl, nofun, Nat.lt_succ_of_le (Nat.le_trans h (by decide : 5 ≤ 7))⟩

/-- No register is named twice. -/
theorem frameStores_nodup (frame : List Byte) : ((frameStores frame).map Prod.fst).Nodup := by
  have hsub : ((frameStores frame).map Prod.fst).Sublist (frameRegs ++ [.flen]) := by
    rw [frameStores, List.map_append]
    refine List.Sublist.append ?_ (List.Sublist.refl _)
    rw [List.zip_eq_zip_take_min, List.map_fst_zip (by simp)]
    exact List.take_sublist _ _
  exact hsub.nodup (by decide)

/-- The block with a frame in the buffer: its bytes, its length in FLEN, and nothing else changed (rule R78). -/
def Block.withFrame (b : Block) (frame : List Byte) : Block :=
  { b with
    flen := BitVec.ofNat 3 frame.length
    frame0 := frame[0]?.getD b.frame0
    frame1 := frame[1]?.getD b.frame1
    frame2 := frame[2]?.getD b.frame2
    frame3 := frame[3]?.getD b.frame3
    frame4 := frame[4]?.getD b.frame4 }

/-- LDFRAME's stores in program order, for each length that the buffer has room for. -/
theorem Block.foldl_store_frameStores (b : Block) {frame : List Byte} (h : frame.length ≤ 5) :
    (frameStores frame).foldl Block.store b = b.withFrame frame := by
  rcases frame with _ | ⟨x0, _ | ⟨x1, _ | ⟨x2, _ | ⟨x3, _ | ⟨x4, _ | ⟨x5, frame⟩⟩⟩⟩⟩⟩
  case cons.cons.cons.cons.cons.cons => exact absurd h (by simp)
  all_goals simp [frameStores, frameRegs, Block.store, Block.writeReg, Block.withFrame]

theorem Block.withFrame_frameAt (b : Block) {frame : List Byte} (h : frame.length ≤ 5) (i : Nat) :
    (b.withFrame frame).frameAt i = frame[i]?.getD (b.frameAt i) := by
  rcases i with _ | _ | _ | _ | _ | i
  case succ.succ.succ.succ.succ =>
    rw [List.getElem?_eq_none (by omega)]
    rfl
  all_goals rfl

theorem Block.withFrame_presents (b : Block) {frame : List Byte} (h : frame.length ≤ 5) :
    (b.withFrame frame).presents frame := by
  refine ⟨h, Nat.mod_eq_of_lt (Nat.lt_of_le_of_lt h (by decide)), ?_⟩
  refine List.ext_getElem (by simp) fun i _ hi => ?_
  rw [List.getElem_map, List.getElem_range, b.withFrame_frameAt h, List.getElem?_eq_getElem hi, Option.getD_some]

theorem Block.withFrame_frameAt_beyond (b : Block) {frame : List Byte} (h : frame.length ≤ 5) {i : Nat}
    (hi : frame.length ≤ i) : (b.withFrame frame).frameAt i = b.frameAt i := by
  rw [b.withFrame_frameAt h, List.getElem?_eq_none hi, Option.getD_none]

/-- Settles O57: every order leaves the block that program order leaves. -/
theorem frameWritesPresentFrame : Obligations.FrameWritesPresentFrame := by
  unfold Obligations.FrameWritesPresentFrame
  intro s frame lines he hlen hperm
  rw [expandPseudo_ldframe] at hperm
  obtain ⟨stores, rfl, hstores⟩ : Relation.Comp (· = List.map storeLine ·) List.Perm lines (frameStores frame) := by
    rwa [List.eq_map_comp_perm]
  have hrun := execAll_map_storeLine he fun p hp => frameStores_storable hlen p (hstores.subset hp)
  rw [← Block.foldl_store_perm hstores.symm (frameStores_nodup frame), s.block.foldl_store_frameStores hlen] at hrun
  exact ⟨_, hrun, s.block.withFrame_presents hlen, fun i => s.block.withFrame_frameAt_beyond hlen, rfl⟩

end Machine
end Sys2Proof
end

section
/-! The proofs about the encoding (rules R98 to R102): what each form of access decodes to, and that `encode` writes the one
access that decodes to its instruction. -/

namespace Sys2Proof
namespace Machine

/-! The decoder on each form of access. -/

theorem decode_command_of_some {word : Byte} {c : Command} (h : decodeCommand word = some c) :
    decode (.command word) = .ok c.instr := by
  rw [decode, h]

theorem decode_command_of_none {word : Byte} (h : decodeCommand word = none) :
    decode (.command word) = .error (.illegalCommand word) := by
  rw [decode, h]

theorem decode_write {header : Header} (h : headerIsWrite header = true) (v : Nat) :
    decode (.transaction header (some v)) = .ok (.wr (headerAddr header) v) := by
  rw [decode, if_pos h]

theorem decode_read {header : Header} (h : headerIsWrite header = false) :
    decode (.transaction header none) = .ok (.rd (headerAddr header)) := by
  rw [decode, if_neg (ne_true_of_eq_false h)]

/-- The accesses that decode: a word of the opcode map, a write with its value, and a read without one. -/
theorem decode_ok_cases {word : HostWord} {i : Instr} (h : decode word = .ok i) :
    (∃ (w : Byte) (c : Command), word = .command w ∧ decodeCommand w = some c ∧ i = c.instr) ∨
    (∃ (header : Header) (v : Nat), word = .transaction header (some v) ∧ headerIsWrite header = true ∧
      i = .wr (headerAddr header) v) ∨
    (∃ header : Header, word = .transaction header none ∧ headerIsWrite header = false ∧ i = .rd (headerAddr header)) := by
  cases word with
  | command w =>
    cases hw : decodeCommand w with
    | none => cases (decode_command_of_none hw).symm.trans h
    | some c =>
      cases (decode_command_of_some hw).symm.trans h
      exact .inl ⟨w, c, rfl, hw, rfl⟩
  | transaction header data =>
    cases hw : headerIsWrite header <;> cases data
    case true.some v =>
      cases (decode_write hw v).symm.trans h
      exact .inr (.inl ⟨header, v, rfl, hw, rfl⟩)
    case false.none =>
      cases (decode_read hw).symm.trans h
      exact .inr (.inr ⟨header, rfl, hw, rfl⟩)
    all_goals simp [decode, hw] at h

/-! Decoding and encoding are inverse. -/

theorem encode_instr (c : Command) : encode c.instr = .command c.opcode := by cases c <;> rfl

theorem decode_encode (i : Instr) : decode (encode i) = .ok i := by
  rcases instr_command_or_access i with ⟨c, rfl⟩ | ⟨a, v, rfl⟩ | ⟨a, rfl⟩
  · rw [encode_instr, decode_command_of_some (decodeCommand_opcode c)]
  · obtain ⟨hwrite, haddr⟩ := writeHeader_fields a
    rw [encode, decode_write hwrite, haddr]
  · obtain ⟨hread, haddr⟩ := readHeader_fields a
    rw [encode, decode_read hread, haddr]

theorem encode_of_decode {word : HostWord} {i : Instr} (h : decode word = .ok i) : encode i = word := by
  rcases decode_ok_cases h with ⟨w, c, rfl, hw, rfl⟩ | ⟨header, v, rfl, hw, rfl⟩ | ⟨header, rfl, hw, rfl⟩
  · rw [encode_instr, decodeCommand_some hw]
  · rw [encode, writeHeader_headerAddr header hw]
  · rw [encode, readHeader_headerAddr header hw]

/-- Settles O1. -/
theorem decodeEncodeAgree : Obligations.DecodeEncodeAgree := ⟨decode_encode, fun _ _ => encode_of_decode⟩

/-! Well-formed accesses. -/

theorem encode_wellFormed (i : Instr) : (encode i).wellFormed = true := by
  rcases instr_command_or_access i with ⟨c, rfl⟩ | ⟨a, v, rfl⟩ | ⟨a, rfl⟩
  · rw [encode_instr, HostWord.wellFormed, ← decodeCommand_isSome, decodeCommand_opcode, Option.isSome_some]
  · exact (Laws.EncodedWords.wr a v).2
  · exact (Laws.EncodedWords.rd a).2

theorem decode_of_wellFormed {word : HostWord} (h : word.wellFormed = true) : ∃ i : Instr, decode word = .ok i := by
  cases word with
  | command w =>
    rw [HostWord.wellFormed, ← decodeCommand_isSome] at h
    obtain ⟨c, hc⟩ := Option.isSome_iff_exists.mp h
    exact ⟨_, decode_command_of_some hc⟩
  | transaction header data =>
    have hw : headerIsWrite header = data.isSome := eq_of_beq h
    cases data with
    | some v => exact ⟨_, decode_write hw v⟩
    | none => exact ⟨_, decode_read hw⟩

/-- Settles O2: what decodes is an encoding, and every encoding is well-formed. -/
theorem wellFormedWordsDecode : Obligations.WellFormedWordsDecode := by
  unfold Obligations.WellFormedWordsDecode
  refine fun word => ⟨decode_of_wellFormed, ?_⟩
  rintro ⟨i, hi⟩
  exact encode_of_decode hi ▸ encode_wellFormed i

/-! The opcode map and the headers, written out. -/

theorem decodeCommand_eq_none_iff (word : Byte) :
    decodeCommand word = none ↔ 0x07 < word.toNat ∧ word.toNat ≠ 0x0F := by
  rw [← Option.not_isSome_iff_eq_none, decodeCommand_isSome]
  simp [legalCommandWord]

/-- Settles O3: the opcodes are those of rule R98, and the decoder knows no word that is not legal. -/
theorem commandDecoderMap : Obligations.CommandDecoderMap := by
  unfold Obligations.CommandDecoderMap
  intro word
  have hopcode (c : Command) (h : word = c.opcode) : decodeCommand word = some c := h ▸ decodeCommand_opcode c
  exact ⟨hopcode .nop, hopcode .enc, hopcode .dcfg, hopcode .loc, hopcode .dsmp, hopcode .tophys, hopcode .frame,
    hopcode .merge, hopcode .srst, fun _ => (decodeCommand_eq_none_iff word).mpr (by omega),
    fun _ => (decodeCommand_eq_none_iff word).mpr (by omega)⟩

theorem writeHeader_toNat (a : HostAddr) : (writeHeader a).toNat = 0x100 + a.toNat := by
  revert a
  decide

theorem readHeader_toNat (a : HostAddr) : (readHeader a).toNat = a.toNat :=
  BitVec.toNat_setWidth_of_le (by decide)

/-- Settles O4. -/
theorem transactionHeaders : Obligations.TransactionHeaders :=
  ⟨fun a _ => ⟨writeHeader a, rfl, writeHeader_toNat a⟩, fun a => ⟨readHeader a, rfl, readHeader_toNat a⟩⟩

/-- Settles O5: each word is the encoding of its instruction. -/
theorem wordsWrittenOut : Obligations.WordsWrittenOut :=
  ⟨decode_encode .nop, decode_encode .srst, decode_encode .enc, decode_encode .merge, decode_encode .frame,
    decode_encode .tophys, decode_encode (.wr 0x0A#8 0x059), decode_encode (.rd 0x08#8)⟩

end Machine
end Sys2Proof
end

section
/-! The proof that a command word is the write of it to CMD (rules R105, R125, R126): both reset for SRST's word, and for
every other word both run `execute`, which the faulted block ignores. -/

namespace Sys2Proof
namespace Machine

section
variable {word : Byte} {s : State}

theorem runAccess_command (hword : word ≠ 0x0F#8) :
    runAccess (.command word) s = .next (s.runCommand (executeBody word)) := by
  cases hc : decodeCommand word with
  | none =>
    rw [runAccess, decode_command_of_none hc]
    rfl
  | some c =>
    have hsrst : c ≠ .srst := by
      rintro rfl
      exact hword (decodeCommand_some hc)
    have hbody : executeBody word = commandBody c := by
      funext b
      rw [executeBody, hc]
    rw [runAccess, decode_command_of_some hc, hbody]
    exact exec_instr hsrst s

theorem execWr_cmd (hword : word ≠ 0x0F#8) :
    execWr 0x00#8 word.toNat s = .next (s.runCommand (executeBody word)) := by
  rcases execWr_cases 0x00#8 word.toNat s with ⟨_, _, hv, _⟩ | ⟨he, _, h⟩ | ⟨he, h⟩
  · exact absurd (BitVec.eq_of_toNat_eq hv) hword
  · rw [h, State.runCommand_of_err he]
  · rw [h, writeBody_cmd, State.runCommand_of_not_err he]

/-- A write of 0x0F to CMD is SRST, faulted or not (rules R126, R211). -/
theorem execWr_cmd_srst : execWr 0x00#8 0x0F s = .next s.resetBlock := by
  rcases execWr_cases 0x00#8 0x0F s with ⟨_, _, _, h⟩ | ⟨_, hne, _⟩ | ⟨_, h⟩
  · exact h
  · exact absurd ⟨rfl, rfl⟩ hne
  · exact h

theorem runAccess_command_eq_execWr : runAccess (.command word) s = execWr 0x00#8 word.toNat s := by
  by_cases hword : word = 0x0F#8
  · subst hword
    exact execWr_cmd_srst.symm
  · rw [runAccess_command hword, execWr_cmd hword]

end

/-- Settles O8. -/
theorem commandWordIsWriteToCmd : Obligations.CommandWordIsWriteToCmd := by
  unfold Obligations.CommandWordIsWriteToCmd
  intro s word rest
  rw [step_of_cons rfl, step_of_cons rfl]
  exact runAccess_command_eq_execWr

end Machine
end Sys2Proof
end

section
/-! The proof of the expansions of rule R106: fields that do not overlap add up, and the frame buffer's registers stand at
successive addresses. -/

namespace Sys2Proof
namespace Machine

/-- The addresses of the frame buffer (rule R62). -/
theorem regAddr_frameRegs : ∀ (i : Nat) (h : i < 5), regAddr frameRegs[i] = BitVec.ofNat 8 (0x03 + i) := by
  decide

theorem frameWrites_eq {bytes : List Byte} (h : bytes.length ≤ 5) :
    frameWrites bytes =
      (List.range bytes.length).map fun i => Instr.wr (BitVec.ofNat 8 (0x03 + i)) (bytes.getD i 0).toNat := by
  have hlen : frameRegs.length = 5 := rfl
  refine List.ext_getElem (by simp [frameWrites, hlen, h]) fun i _ hmap => ?_
  have hi : i < bytes.length := by simpa using hmap
  have haddr : regAddr frameRegs[i] = BitVec.ofNat 8 (0x03 + i) := regAddr_frameRegs i (by omega)
  simp [frameWrites, writeLine, haddr, hi]

/-- The fields of CONF do not overlap (rule R29). -/
theorem confFields_eq_add (ready : Bool) (channel : BitVec 3) (mode : BitVec 1) (res gain : BitVec 2) :
    ready.toNat <<< 8 ||| channel.toNat <<< 5 ||| mode.toNat <<< 4 ||| res.toNat <<< 2 ||| gain.toNat =
      ready.toNat * 256 + channel.toNat * 32 + mode.toNat * 16 + res.toNat * 4 + gain.toNat := by
  rw [← BitVec.toNat_ofBool, ← packConf_toNat]
  rw [packConf, BitVec.toNat_append, BitVec.toNat_append, BitVec.toNat_append, BitVec.toNat_append]
  simp only [Nat.shiftLeft_or_distrib, ← Nat.shiftLeft_add, Nat.reduceAdd]

/-- A partial field as arithmetic (rule R30). -/
theorem partialField_map {α : Type} {w : Nat} {code : α → Nat} (hcode : ∀ x, code x < 2 ^ w) (lo : Nat) (o : Option α) :
    partialField lo w (o.map code) = o.elim 0 fun x => 2 ^ (lo + w) + code x * 2 ^ lo := by
  cases o with
  | none => rfl
  | some x =>
    rw [Option.map_some, partialField, Nat.or_comm, ← Nat.shiftLeft_add_eq_or_of_lt (hcode x)]
    simp only [Nat.shiftLeft_eq, Option.elim]
    ring

theorem partialField_lt {α : Type} {w : Nat} {code : α → Nat} (hcode : ∀ x, code x < 2 ^ w) (lo : Nat) (o : Option α) :
    partialField lo w (o.map code) < 2 ^ (lo + w + 1) := by
  rw [partialField_map hcode]
  cases o with
  | none => exact Nat.two_pow_pos _
  | some x =>
    have h : code x * 2 ^ lo < 2 ^ w * 2 ^ lo := Nat.mul_lt_mul_of_pos_right (hcode x) (Nat.two_pow_pos lo)
    rw [← pow_add, Nat.add_comm w] at h
    rw [Option.elim, pow_succ]
    omega

/-- A partial field goes on top of what lies below its bits. -/
theorem or_partialField {a lo : Nat} (h : a < 2 ^ lo) (w : Nat) (o : Option Nat) :
    a ||| partialField lo w o = a + partialField lo w o := by
  cases o with
  | none => exact Nat.or_zero a
  | some v => rw [partialField, Nat.or_comm, ← Nat.shiftLeft_add_eq_or_of_lt h, Nat.add_comm]

theorem or_partialField_lt {α : Type} {a lo w : Nat} {code : α → Nat} (h : a < 2 ^ lo) (hcode : ∀ x, code x < 2 ^ w)
    (o : Option α) : a ||| partialField lo w (o.map code) < 2 ^ (lo + w + 1) :=
  Nat.or_lt_two_pow (h.trans_le (Nat.pow_le_pow_right Nat.two_pos (by omega))) (partialField_lt hcode lo o)

/-- The partial fields of PCONF do not overlap (rule R30). -/
theorem pconfFields_eq_add (gain : Option Gain) (res : Option Resolution) (mode : Option Mode)
    (channel : Option (BitVec 3)) (ready : Option Bool) :
    partialField 0 2 (gain.map fun g => (gainCode g).toNat) |||
        partialField 3 2 (res.map fun r => (resolutionCode r).toNat) |||
        partialField 6 1 (mode.map fun m => (modeCode m).toNat) |||
        partialField 8 3 (channel.map fun c => c.toNat) ||| partialField 12 1 (ready.map fun r => r.toNat) =
      (gain.elim 0 fun g => 4 + (gainCode g).toNat) + (res.elim 0 fun r => 32 + (resolutionCode r).toNat * 8) +
        (mode.elim 0 fun m => 128 + (modeCode m).toNat * 64) + (channel.elim 0 fun c => 2048 + c.toNat * 256) +
        (ready.elim 0 fun r => 8192 + r.toNat * 4096) := by
  have hgain (g : Gain) := (gainCode g).isLt
  have hres (r : Resolution) := (resolutionCode r).isLt
  have hmode (m : Mode) := (modeCode m).isLt
  have hchannel (c : BitVec 3) := c.isLt
  have hready (r : Bool) := r.toNat_lt
  have h3 := partialField_lt hgain 0 gain
  have h6 := or_partialField_lt (lo := 3) h3 hres res
  have h8 := or_partialField_lt (lo := 6) h6 hmode mode
  have h12 := or_partialField_lt (lo := 8) h8 hchannel channel
  rw [or_partialField (lo := 12) h12, or_partialField (lo := 8) h8, or_partialField (lo := 6) h6,
    or_partialField (lo := 3) h3,
    partialField_map hgain, partialField_map hres, partialField_map hmode, partialField_map hchannel,
    partialField_map (w := 1) hready]
  simp

/-- Settles O6. -/
theorem pseudoInstructionExpansions : Obligations.PseudoInstructionExpansions := by
  unfold Obligations.PseudoInstructionExpansions
  refine ⟨fun bytes h => ?ldframe, fun ready channel mode res gain => ?setconf,
    fun gain res mode channel ready => ?setpconf, fun _ => rfl⟩
  case ldframe =>
    rw [expandPseudo, frameWrites_eq h]
    rfl
  case setconf =>
    rw [expandPseudo, confFields_eq_add]
    rfl
  case setpconf =>
    rw [expandPseudo, pconfFields_eq_add]
    rfl

end Machine
end Sys2Proof
end

section
/-! The proofs about host accesses (rules R121 to R126): bad reads, bad writes, writes to CMD, and what the faulted block
ignores. -/

namespace Sys2Proof
namespace Machine

section
variable {s : State} {a : HostAddr}

/-! Bad reads (rule R122). -/

/-- The addresses that cannot be read are CMD and the unmapped ones (rule R120). -/
theorem regAt_of_unreadable (h : a = 0x00#8 ∨ 0x10 ≤ a.toNat) : regAt a = some .cmd ∨ regAt a = none :=
  h.imp (congrArg regAt) regAt_none.mpr

theorem execRd_of_unreadable (h : a = 0x00#8 ∨ 0x10 ≤ a.toNat) (s : State) : execRd a s = .next (s.badRead a) := by
  rcases execRd_cases a s with ⟨r, hr, hcmd, _⟩ | ⟨_, e⟩
  · rcases regAt_of_unreadable h with h' | h' <;> cases h'.symm.trans hr
    exact absurd rfl hcmd
  · exact e

theorem State.badRead_of_err (he : s.block.err = true) (a : HostAddr) : s.badRead a = s.receive 0 := by
  rw [State.badRead, Block.raiseFault_of_err _ _ he]

/-- STATUS after a bad access (rules R24, R221, R228). -/
theorem faultStatus_badAccess (a : HostAddr) :
    faultStatus ⟨.badAccess, a⟩ = BitVec.ofNat 12 (a.toNat * 16 + 0x00E) :=
  faultStatus_eq _

theorem State.badRead_of_not_err (he : s.block.err = false) (a : HostAddr) :
    s.badRead a = State.receive
      { s with block := { s.block with status := BitVec.ofNat 12 (a.toNat * 16 + 0x00E) } } 0 := by
  rw [State.badRead, Block.raiseFault_of_not_err _ _ he, faultStatus_badAccess]

/-! Bad writes (rule R124). -/

theorem writeBody_of_bad {v : Nat}
    (h : regAt a = none ∨ ∃ r, regAt a = some r ∧ (regWritable r = false ∨ 2 ^ regWidth r ≤ v)) (b : Block) :
    writeBody a v b = .error ⟨.badAccess, a⟩ := by
  rcases h with h | ⟨r, h, hw | hv⟩
  · simp [writeBody, h]
  · simp [writeBody, h, hw]
  · simp [writeBody, h, hv]

/-- CMD, FRAME0 to FRAME4 and CFGBYTE are the registers of 8 bits that a write can address (rules R62, R120). -/
theorem regAt_of_byte_address (h : a = 0x00#8 ∨ 0x03 ≤ a.toNat ∧ a.toNat ≤ 0x08) :
    ∃ r, regAt a = some r ∧ regWidth r = 8 := by
  have hwidth : (regAt a).map regWidth = some 8 := by
    revert a
    decide
  exact Option.map_eq_some_iff.mp hwidth

/-! Writes to CMD (rule R125). -/

/-- A write of a command's opcode to CMD is that command, faulted or not (rules R105, R126). -/
theorem execWr_cmd_opcode (c : Command) (s : State) : execWr 0x00#8 c.opcode.toNat s = exec c.instr s := by
  rw [← runAccess_command_eq_execWr, runAccess, decode_command_of_some (decodeCommand_opcode c)]

/-- A write of a word that is no command records ILLEGAL_CMD with the word (rules R99, R227). -/
theorem execWr_cmd_illegal {word : Byte} (hd : decodeCommand word = none) (he : s.block.err = false) :
    execWr 0x00#8 word.toNat s =
      .next { s with block := { s.block with status := BitVec.ofNat 12 (word.toNat * 16 + 0x009) } } := by
  have hword : word ≠ 0x0F#8 := by
    rintro rfl
    cases hd
  have hbody : executeBody word s.block = .error ⟨.illegalCmd, word⟩ := by
    rw [executeBody, hd]
  rw [execWr_cmd hword, State.runCommand_of_error he hbody, faultStatus_eq]
  rfl

/-! The faulted block (rule R126). -/

theorem execWr_of_err {v : Nat} (he : s.block.err = true) (h : ¬(a = 0x00#8 ∧ v = 0x0F)) : execWr a v s = .next s := by
  rcases execWr_cases a v s with ⟨_, ha, hv, _⟩ | ⟨_, _, e⟩ | ⟨he', _⟩
  · exact absurd ⟨ha, hv⟩ h
  · exact e
  · cases he.symm.trans he'

theorem exec_instr_of_err {c : Command} (hc : c ≠ .srst) (he : s.block.err = true) : exec c.instr s = .next s := by
  rw [exec_instr hc, State.runCommand_of_err he]

end

/-- Settles O16. -/
theorem badReadReturnsZero : Obligations.BadReadReturnsZero := by
  unfold Obligations.BadReadReturnsZero
  intro a s ha
  have hread : exec (.rd a) s = .next (s.badRead a) := execRd_of_unreadable ha s
  refine ⟨fun he => ?healthy, fun he => ?faulted⟩
  case healthy =>
    rw [hread, State.badRead_of_not_err he]
    rfl
  case faulted =>
    rw [hread, State.badRead_of_err he]
    rfl

/-- Settles O17: a good read returns the register's own pattern, and a bad read returns 0. -/
theorem readValueFitsRegister : Obligations.ReadValueFitsRegister := by
  unfold Obligations.ReadValueFitsRegister
  intro a s
  rcases execRd_cases a s with ⟨r, hr, _, e⟩ | ⟨_, e⟩
  · refine ⟨_, s.block.readReg r, e, rfl, rfl, fun r' hr' => ?_, fun hnone => ?_⟩
    · cases hr.symm.trans hr'
      exact s.block.readReg_lt r
    · cases hr.symm.trans hnone
  · exact ⟨_, 0, e, rfl, s.block.raiseFault_frame _, fun r _ => Nat.two_pow_pos _, fun _ => rfl⟩

/-- Settles O18, register by register of rule R120. -/
theorem wrStoresDataRegister : Obligations.WrStoresDataRegister := by
  unfold Obligations.WrStoresDataRegister
  intro s v he
  have hstore (r : RegName) (hw : regWritable r = true) (hr : r ≠ .cmd) (hv : v < 2 ^ regWidth r) :
      exec (.wr (regAddr r) v) s = .next { s with block := s.block.writeReg r v } :=
    execWr_of_store he (regAt_regAddr r) hw hr hv
  exact ⟨hstore .flen rfl nofun, hstore .frame0 rfl nofun, hstore .frame1 rfl nofun, hstore .frame2 rfl nofun,
    hstore .frame3 rfl nofun, hstore .frame4 rfl nofun, hstore .cfgbyte rfl nofun, hstore .conf rfl nofun,
    hstore .pconf rfl nofun, hstore .raw rfl nofun⟩

/-- Settles O19: the cases (a), (b) and (c) of rule R124. -/
theorem badWriteFaults : Obligations.BadWriteFaults := by
  unfold Obligations.BadWriteFaults
  intro a v s he hbad
  refine execWr_of_bad he (writeBody_of_bad ?_ s.block)
  rcases hbad with hunmapped | hreadOnly | ⟨hbyte, hv⟩ | hwide
  · exact .inl (regAt_none.mpr hunmapped)
  · rcases hreadOnly with rfl | rfl | rfl | rfl | rfl <;> exact .inr ⟨_, rfl, .inl rfl⟩
  · obtain ⟨r, hr, hwidth⟩ := regAt_of_byte_address hbyte
    exact .inr ⟨r, hr, .inr (by rw [hwidth]; exact hv)⟩
  · rcases hwide with ⟨rfl, hv⟩ | ⟨rfl, hv⟩ | ⟨rfl, hv⟩ | ⟨rfl, hv⟩ <;> exact .inr ⟨_, rfl, .inr hv⟩

/-- Settles O20: the opcodes are those of rule R98, and the decoder knows no other word. -/
theorem wrCmdRunsCommand : Obligations.WrCmdRunsCommand := by
  unfold Obligations.WrCmdRunsCommand
  intro s he
  have hopcode (c : Command) : exec (.wr 0x00#8 c.opcode.toNat) s = exec c.instr s := execWr_cmd_opcode c s
  refine ⟨hopcode .nop, hopcode .enc, hopcode .dcfg, hopcode .loc, hopcode .dsmp, hopcode .tophys, hopcode .frame,
    hopcode .merge, hopcode .srst, fun v hv => ?_⟩
  obtain ⟨word, rfl⟩ : ∃ word : Byte, word.toNat = v := ⟨BitVec.ofNat 8 v, Nat.mod_eq_of_lt (by omega)⟩
  exact execWr_cmd_illegal ((decodeCommand_eq_none_iff word).mpr (by omega)) he

/-- Settles O22. -/
theorem faultedBlockIgnoresWrites : Obligations.FaultedBlockIgnoresWrites := by
  unfold Obligations.FaultedBlockIgnoresWrites
  intro s he
  have hignored (c : Command) (hc : c ≠ .srst) : exec c.instr s = .next s := exec_instr_of_err hc he
  refine ⟨fun a v => execWr_of_err he, hignored .nop nofun, hignored .enc nofun, hignored .dcfg nofun,
    hignored .loc nofun, hignored .dsmp nofun, hignored .tophys nofun, hignored .frame nofun, hignored .merge nofun,
    execWr_cmd_srst, rfl, fun a r hr hcmd => execRd_of_regAt hr hcmd s, fun a ha => ?_⟩
  rw [← State.badRead_of_err he a]
  exact execRd_of_unreadable ha s

/-- Settles O47: commands, writes and reads each go on in every case of what they can do. -/
theorem everyInstructionCompletes : Obligations.EveryInstructionCompletes := by
  unfold Obligations.EveryInstructionCompletes
  intro i s
  rcases instr_command_or_access i with ⟨c, rfl⟩ | ⟨a, v, rfl⟩ | ⟨a, rfl⟩
  · by_cases hc : c = .srst
    · exact ⟨s.resetBlock, by rw [hc]; rfl⟩
    · exact ⟨_, exec_instr hc s⟩
  · rcases execWr_cases a v s with ⟨_, _, _, e⟩ | ⟨_, _, e⟩ | ⟨_, e⟩ <;> exact ⟨_, e⟩
  · rcases execRd_cases a s with ⟨_, _, _, e⟩ | ⟨_, e⟩ <;> exact ⟨_, e⟩

end Machine
end Sys2Proof
end

section
/-! The proofs about the configuration-byte codec (rules R140 to R144): what ENC, DCFG and MERGE leave while ERR = 0, that the
packing and the unpacking of the byte are inverse, and that a merge gives a configuration. -/

namespace Sys2Proof
namespace Machine

/-! Commands while ERR = 0 (rules R125, R226). -/

section
variable {s : State} {c : Command}

theorem exec_instr_of_ok {b' : Block} (hc : c ≠ .srst) (he : s.block.err = false)
    (hb : commandBody c s.block = .ok b') : exec c.instr s = .next { s with block := b' } := by
  rw [exec_instr hc, State.runCommand_of_ok he hb]

theorem exec_instr_of_error {r : FaultReport} (hc : c ≠ .srst) (he : s.block.err = false)
    (hb : commandBody c s.block = .error r) :
    exec c.instr s = .next { s with block := { s.block with status := faultStatus r } } := by
  rw [exec_instr hc, State.runCommand_of_error he hb]

end

/-! ENC, DCFG and MERGE (rules R140 to R142). -/

section
variable {s : State}

theorem exec_enc_of_valid (he : s.block.err = false) (hv : validConf s.block.conf = true) :
    exec .enc s = .next { s with block := { s.block with cfgbyte := encodeConf s.block.conf } } :=
  exec_instr_of_ok (c := .enc) nofun he (if_pos hv)

theorem exec_enc_of_invalid (he : s.block.err = false) (hv : ¬validConf s.block.conf = true) :
    exec .enc s = .next { s with block := { s.block with status := 0x01A#12 } } :=
  exec_instr_of_error (c := .enc) nofun he (if_neg hv)

theorem exec_dcfg_of_not_err (he : s.block.err = false) :
    exec .dcfg s = .next { s with block := { s.block with conf := decodeConf s.block.cfgbyte } } :=
  exec_instr_of_ok (c := .dcfg) nofun he rfl

/-- DCFG changes nothing when CONF is what CFGBYTE unpacks to. -/
theorem exec_dcfg_of_decoded (he : s.block.err = false) (h : decodeConf s.block.cfgbyte = s.block.conf) :
    exec .dcfg s = .next s := by
  rw [exec_dcfg_of_not_err he, h]

theorem exec_merge_of_valid (he : s.block.err = false) (hv : validConf s.block.conf = true)
    (hset : pconfChannelSet s.block.pconf = true → validChannel (pconfChannel s.block.pconf) = true) :
    exec .merge s = .next { s with block := { s.block with conf := mergeConf s.block.conf s.block.pconf } } := by
  rcases mergeBody_cases s.block with ⟨hbad | ⟨hs, hbad⟩, _⟩ | ⟨_, _, hb⟩
  · exact absurd hv (ne_true_of_eq_false hbad)
  · exact absurd (hset hs) (ne_true_of_eq_false hbad)
  · exact exec_instr_of_ok (c := .merge) nofun he hb

theorem exec_merge_of_invalid (he : s.block.err = false)
    (hbad : ¬validConf s.block.conf = true ∨
      pconfChannelSet s.block.pconf = true ∧ ¬validChannel (pconfChannel s.block.pconf) = true) :
    exec .merge s = .next { s with block := { s.block with status := 0x07A#12 } } := by
  rcases mergeBody_cases s.block with ⟨_, hb⟩ | ⟨hv, hset, _⟩
  · exact exec_instr_of_error (c := .merge) nofun he hb
  · rcases hbad with hbad | ⟨hs, hbad⟩
    · exact absurd hv hbad
    · exact absurd (hset hs) hbad

end

/-! Packing and unpacking are inverse (rules R143, R144). -/

theorem decodeConf_encodeConf {c : BitVec 9} (hv : validConf c = true) : decodeConf (encodeConf c) = c := by
  have hchannel := (validConf_iff c).mp hv
  apply BitVec.eq_of_toNat_eq
  rw [decodeConf_toNat, encodeConf_toNat c hv]
  omega

theorem encodeConf_decodeConf (b : Byte) : encodeConf (decodeConf b) = b := by
  have hb := b.isLt
  apply BitVec.eq_of_toNat_eq
  rw [encodeConf_toNat _ (decodeConf_valid b), decodeConf_toNat]
  omega

theorem encodeConf_injective {c d : BitVec 9} (hc : validConf c = true) (hd : validConf d = true)
    (h : encodeConf c = encodeConf d) : c = d := by
  rw [← decodeConf_encodeConf hc, h, decodeConf_encodeConf hd]

/-- A merge onto a configuration gives a configuration when a set channel is in range (rule R142). -/
theorem mergeConf_valid {c : BitVec 9} {p : BitVec 14} (hv : validConf c = true)
    (hset : pconfChannelSet p = true → validChannel (pconfChannel p) = true) : validConf (mergeConf c p) = true := by
  rw [validConf, confChannel_mergeConf]
  split
  case isTrue hs => exact hset hs
  case isFalse => exact hv

/-! The obligations' numbers. -/

theorem validChannel_pconfChannel_iff (p : BitVec 14) :
    validChannel (pconfChannel p) = true ↔ 1 ≤ p.toNat / 256 % 8 ∧ p.toNat / 256 % 8 ≤ 4 := by
  rw [validChannel_iff, pconfChannel_toNat]

/-- `decodeConf_eq_ofNat` with MODE, RES and GAIN each in its place (rules R91, R141). -/
theorem decodeConf_eq_ofNat_fields (b : Byte) :
    decodeConf b = BitVec.ofNat 9
      (b.toNat / 128 * 256 + (b.toNat / 32 % 4 + 1) * 32 + b.toNat / 16 % 2 * 16 + b.toNat / 4 % 4 * 4 +
        b.toNat % 4) := by
  have hlow : b.toNat % 32 = b.toNat / 16 % 2 * 16 + b.toNat / 4 % 4 * 4 + b.toNat % 4 := by omega
  rw [decodeConf_eq_ofNat, hlow, ← Nat.add_assoc, ← Nat.add_assoc]

/-- Settles O24: ENC packs a valid CONF and faults on any other. -/
theorem encPacksConfiguration : Obligations.EncPacksConfiguration := by
  unfold Obligations.EncPacksConfiguration
  refine ⟨rfl, fun s he => ?_⟩
  rw [← validConf_iff]
  refine ⟨fun hv => ?valid, exec_enc_of_invalid he⟩
  case valid => rw [exec_enc_of_valid he hv, ← encodeConf_toNat _ hv, BitVec.ofNat_toNat, BitVec.setWidth_eq]

/-- Settles O25. -/
theorem dcfgUnpacksByte : Obligations.DcfgUnpacksByte := by
  unfold Obligations.DcfgUnpacksByte
  refine ⟨rfl, fun s he => ?_⟩
  rw [exec_dcfg_of_not_err he, decodeConf_eq_ofNat_fields]

/-- Settles O26: MERGE overlays the set fields when both channels are in range, and faults otherwise. -/
theorem mergeOverlaysSetFields : Obligations.MergeOverlaysSetFields := by
  unfold Obligations.MergeOverlaysSetFields
  refine ⟨rfl, ?_⟩
  rintro s _ _ he rfl rfl
  rw [← validConf_iff, ← validChannel_pconfChannel_iff]
  refine ⟨fun hbad => ?invalid, fun ⟨hv, hset⟩ => ?valid⟩
  case invalid =>
    rw [← pconfChannelSet_iff] at hbad
    exact exec_merge_of_invalid he hbad
  case valid =>
    rw [← pconfChannelSet_iff] at hset
    rw [exec_merge_of_valid he hv hset, ← mergeConf_toNat, BitVec.ofNat_toNat, BitVec.setWidth_eq]

/-- Settles O27: the byte that ENC writes unpacks to the CONF that is already there. -/
theorem encThenDcfgKeepsConf : Obligations.EncThenDcfgKeepsConf := by
  unfold Obligations.EncThenDcfgKeepsConf
  intro s he hv
  exact ⟨_, _, exec_enc_of_valid he hv, exec_dcfg_of_decoded he (decodeConf_encodeConf hv), rfl, rfl⟩

/-- Settles O28: unpacking and packing a byte gives it back, and unpacking undoes the packing of a valid CONF. -/
theorem dcfgThenEncKeepsByte : Obligations.DcfgThenEncKeepsByte := by
  unfold Obligations.DcfgThenEncKeepsByte
  refine ⟨fun s he => ?inverse, fun s1 s2 t1 t2 he1 he2 hv1 hv2 h1 h2 hbyte => ?injective⟩
  case inverse =>
    have hv := decodeConf_valid s.block.cfgbyte
    exact ⟨_, _, exec_dcfg_of_not_err he, hv, exec_enc_of_valid he hv, encodeConf_decodeConf _⟩
  case injective =>
    cases (exec_enc_of_valid he1 hv1).symm.trans h1
    cases (exec_enc_of_valid he2 hv2).symm.trans h2
    exact encodeConf_injective hv1 hv2 hbyte

/-- Settles O29: the merged CONF is a configuration, and merging onto it gives it again. -/
theorem mergeTwiceIsOnce : Obligations.MergeTwiceIsOnce := by
  unfold Obligations.MergeTwiceIsOnce
  intro s t he h ht
  rcases mergeBody_cases s.block with ⟨_, hb⟩ | ⟨hv, hset, _⟩
  case inl =>
    cases (exec_instr_of_error (c := .merge) nofun he hb).symm.trans h
    exact absurd (statusErr_faultStatus _) (ne_true_of_eq_false ht)
  case inr =>
    have hvalid := mergeConf_valid hv hset
    cases (exec_merge_of_valid he hv hset).symm.trans h
    refine ⟨hvalid, ?_⟩
    rw [exec_merge_of_valid ht hvalid hset, mergeConf_mergeConf]

end Machine
end Sys2Proof
end

section
/-! What LOC, DSMP and FRAME leave while ERR = 0 (rules R160 to R165): one lemma for each fault and each success, in terms of
where the configuration byte is, and where that is by the frame's length and pairs. -/

namespace Sys2Proof
namespace Machine

/-! The frame-length check (rule R160). -/

section
variable {b : Block} {min : Nat} {op : Byte}

theorem Block.checkFlen_of_long (h : 5 < b.flen.toNat) : b.checkFlen min op = some ⟨.invalidArg, op⟩ := if_pos h

theorem Block.checkFlen_of_short (h5 : b.flen.toNat ≤ 5) (h : b.flen.toNat < min) :
    b.checkFlen min op = some ⟨.frameShort, op⟩ := by
  rw [Block.checkFlen, if_neg (Nat.not_lt.mpr h5), if_pos h]

theorem Block.checkFlen_of_fits (h : min ≤ b.flen.toNat) (h5 : b.flen.toNat ≤ 5) : b.checkFlen min op = none := by
  rw [Block.checkFlen, if_neg (Nat.not_lt.mpr h5), if_neg (Nat.not_lt.mpr h)]

end

/-! Where the configuration byte is (rules R162, R165). -/

/-- The scan comes to the pair (FRAME2, FRAME3): it is the only pair, or the one after it is no pair of a byte and its marker
(rule R162). -/
def Block.ScansLowerPair (b : Block) : Prop :=
  b.flen.toNat = 4 ∨ b.flen.toNat = 5 ∧ b.frame4 ≠ b.frame3 ||| 0x80#8

/-- FRAME takes the configuration byte `c` at index `j` (rule R165): index 2 of three bytes, or the byte before the first
marker that the scan finds. -/
def Block.HasConfigByte (b : Block) (j : Nat) (c : Byte) : Prop :=
  (b.flen.toNat = 3 ∧ j = 2 ∧ c = b.frame2) ∨
  (b.flen.toNat = 5 ∧ b.frame4 = b.frame3 ||| 0x80#8 ∧ j = 3 ∧ c = b.frame3) ∨
  (b.ScansLowerPair ∧ b.frame3 = b.frame2 ||| 0x80#8 ∧ j = 2 ∧ c = b.frame2)

section
variable {b : Block} {j : Nat} {c : Byte}

theorem Block.ScansLowerPair.flen_bounds (h : b.ScansLowerPair) : 4 ≤ b.flen.toNat ∧ b.flen.toNat ≤ 5 := by
  rcases h with h4 | ⟨h5, _⟩ <;> omega

theorem Block.locate_of_three_bytes (h : b.flen.toNat = 3) : b.locate = none := by
  rw [Block.locate, h]
  exact b.scanFrom_of_lt (by decide)

theorem Block.locate_of_upper_pair (h5 : b.flen.toNat = 5) (hm : b.frame4 = b.frame3 ||| 0x80#8) :
    b.locate = some 3 := by
  rw [b.locate_eq h5.le, if_pos ⟨h5, hm⟩]

theorem Block.locate_of_scansLowerPair (h : b.ScansLowerPair) :
    b.locate = if b.frame3 = b.frame2 ||| 0x80#8 then some 2 else none := by
  rw [Block.locate]
  rcases h with h4 | ⟨h5, hm⟩
  · rw [h4]
    exact b.scanFrom_three
  · rw [h5]
    exact b.scanFrom_four.trans (if_neg hm)

theorem Block.frameConfigIndex_of_scan (h : b.flen.toNat ≠ 3) : b.frameConfigIndex = b.locate := if_neg h

theorem Block.HasConfigByte.flen_bounds (h : b.HasConfigByte j c) : 3 ≤ b.flen.toNat ∧ b.flen.toNat ≤ 5 := by
  rcases h with ⟨h3, _⟩ | ⟨h5, _⟩ | ⟨hlow, _⟩
  · omega
  · omega
  · have := hlow.flen_bounds
    omega

theorem Block.HasConfigByte.frameAt (h : b.HasConfigByte j c) : b.frameAt j = c := by
  rcases h with ⟨_, rfl, rfl⟩ | ⟨_, _, rfl, rfl⟩ | ⟨_, _, rfl, rfl⟩ <;> rfl

/-- `HasConfigByte` says where FRAME looks (rule R165). -/
theorem Block.HasConfigByte.frameConfigIndex (h : b.HasConfigByte j c) : b.frameConfigIndex = some j := by
  rcases h with ⟨h3, rfl, _⟩ | ⟨h5, hm, rfl, _⟩ | ⟨hlow, hm, rfl, _⟩
  · exact if_pos h3
  · rw [Block.frameConfigIndex_of_scan (by omega), Block.locate_of_upper_pair h5 hm]
  · have hbounds := hlow.flen_bounds
    rw [Block.frameConfigIndex_of_scan (by omega), Block.locate_of_scansLowerPair hlow, if_pos hm]

/-- The payload reaches the configuration byte only at 18 bits, and only when that byte is at index 2 (rule R165). -/
theorem Block.HasConfigByte.lt_payload_iff (h : b.HasConfigByte j c) :
    j < payload (deviceResolution c) ↔ c.toNat / 4 % 4 = 3 ∧ j = 2 := by
  have hj := b.frameConfigIndex_range h.flen_bounds.2 h.frameConfigIndex
  rw [payload_deviceResolution]
  split <;> omega

end

/-! The sample and the marker as numbers (rules R94, R170). -/

theorem assemble_eq_ofNat (b : Block) (res : Resolution) :
    b.assemble res = BitVec.ofNat 18
      (if res = .bits18 then (b.frame0.toNat * 65536 + b.frame1.toNat * 256 + b.frame2.toNat) % 262144
      else b.frame0.toNat * 256 + b.frame1.toNat) := by
  rw [← assemble_toNat, BitVec.ofNat_toNat, BitVec.setWidth_eq]

theorem assemble_deviceResolution (b : Block) (c : Byte) :
    b.assemble (deviceResolution c) = BitVec.ofNat 18
      (if c.toNat / 4 % 4 = 3 then (b.frame0.toNat * 65536 + b.frame1.toNat * 256 + b.frame2.toNat) % 262144
      else b.frame0.toNat * 256 + b.frame1.toNat) := by
  rw [assemble_eq_ofNat, if_congr (deviceResolution_bits18 c) rfl rfl]

theorem marker_toNat (c : Byte) : (c ||| 0x80#8).toNat = 128 + c.toNat % 128 := by
  revert c
  decide

/-- The marker of a byte does not depend on the byte's top bit (rule R94). -/
theorem marker_eq_marker_iff (c d : Byte) : c ||| 0x80#8 = d ||| 0x80#8 ↔ c.toNat % 128 = d.toNat % 128 := by
  rw [← BitVec.toNat_inj, marker_toNat, marker_toNat]
  omega

/-- A marker is its own marker (rule R94). -/
theorem marker_marker (c : Byte) : c ||| 0x80#8 ||| 0x80#8 = c ||| 0x80#8 := by
  rw [BitVec.or_assoc, BitVec.or_self]

section
variable {s : State}

/-! LOC (rule R163). -/

theorem exec_loc_of_long (he : s.block.err = false) (h : 5 < s.block.flen.toNat) :
    exec .loc s = .next { s with block := { s.block with status := 0x03A#12 } } :=
  have hb : locBody s.block = .error ⟨.invalidArg, 0x03#8⟩ := by rw [locBody, Block.checkFlen_of_long h]
  exec_instr_of_error (c := .loc) nofun he hb

theorem exec_loc_of_short (he : s.block.err = false) (h : s.block.flen.toNat < 3) :
    exec .loc s = .next { s with block := { s.block with status := 0x03B#12 } } :=
  have hb : locBody s.block = .error ⟨.frameShort, 0x03#8⟩ := by
    rw [locBody, Block.checkFlen_of_short (by omega) h]
  exec_instr_of_error (c := .loc) nofun he hb

theorem exec_loc_of_no_marker (he : s.block.err = false) (h3 : 3 ≤ s.block.flen.toNat) (h5 : s.block.flen.toNat ≤ 5)
    (hl : s.block.locate = none) :
    exec .loc s = .next { s with block := { s.block with status := 0x03C#12 } } :=
  have hb : locBody s.block = .error ⟨.frameNoMarker, 0x03#8⟩ := by
    rw [locBody, Block.checkFlen_of_fits h3 h5, hl]
  exec_instr_of_error (c := .loc) nofun he hb

theorem exec_loc_of_index {j : Nat} (he : s.block.err = false) (h3 : 3 ≤ s.block.flen.toNat)
    (h5 : s.block.flen.toNat ≤ 5) (hl : s.block.locate = some j) :
    exec .loc s = .next { s with block := { s.block with
      cfgbyte := s.block.frameAt j, locidx := BitVec.ofNat 3 j } } :=
  exec_instr_of_ok (c := .loc) nofun he (by rw [commandBody, locBody, Block.checkFlen_of_fits h3 h5, hl])

theorem exec_loc_of_upper_pair (he : s.block.err = false) (h5 : s.block.flen.toNat = 5)
    (hm : s.block.frame4 = s.block.frame3 ||| 0x80#8) :
    exec .loc s = .next { s with block := { s.block with cfgbyte := s.block.frame3, locidx := 3#3 } } :=
  exec_loc_of_index he (by omega) h5.le (Block.locate_of_upper_pair h5 hm)

theorem exec_loc_of_lower_pair (he : s.block.err = false) (h : s.block.ScansLowerPair)
    (hm : s.block.frame3 = s.block.frame2 ||| 0x80#8) :
    exec .loc s = .next { s with block := { s.block with cfgbyte := s.block.frame2, locidx := 2#3 } } :=
  have hbounds := h.flen_bounds
  exec_loc_of_index (j := 2) he (by omega) hbounds.2 (by rw [Block.locate_of_scansLowerPair h, if_pos hm])

theorem exec_loc_of_no_pair (he : s.block.err = false) (h : s.block.ScansLowerPair)
    (hm : s.block.frame3 ≠ s.block.frame2 ||| 0x80#8) :
    exec .loc s = .next { s with block := { s.block with status := 0x03C#12 } } :=
  have hbounds := h.flen_bounds
  exec_loc_of_no_marker he (by omega) hbounds.2 (by rw [Block.locate_of_scansLowerPair h, if_neg hm])

/-! DSMP (rule R164): CONF is checked before FLEN (rule R229). -/

theorem exec_dsmp_of_invalid (he : s.block.err = false)
    (h : ¬validConf s.block.conf = true ∨ 5 < s.block.flen.toNat) :
    exec .dsmp s = .next { s with block := { s.block with status := 0x04A#12 } } := by
  have hb : dsmpBody s.block = .error ⟨.invalidArg, 0x04#8⟩ := by
    rcases h with hv | h5
    · exact if_pos (by simpa using hv)
    · rw [dsmpBody, Block.checkFlen_of_long h5]
      exact ite_self _
  exact exec_instr_of_error (c := .dsmp) nofun he hb

theorem exec_dsmp_of_short (he : s.block.err = false) (hv : validConf s.block.conf = true)
    (h : s.block.flen.toNat < payload (confResolution s.block.conf)) :
    exec .dsmp s = .next { s with block := { s.block with status := 0x04B#12 } } := by
  have hb : dsmpBody s.block = .error ⟨.frameShort, 0x04#8⟩ := by
    have := payload_range (confResolution s.block.conf)
    simp [dsmpBody, hv, Block.checkFlen_of_short (by omega) h]
  exact exec_instr_of_error (c := .dsmp) nofun he hb

theorem exec_dsmp_of_payload (he : s.block.err = false) (hv : validConf s.block.conf = true)
    (h : payload (confResolution s.block.conf) ≤ s.block.flen.toNat) (h5 : s.block.flen.toNat ≤ 5) :
    exec .dsmp s = .next { s with block := { s.block with
      raw := s.block.assemble (confResolution s.block.conf) } } :=
  exec_instr_of_ok (c := .dsmp) nofun he (by simp [commandBody, dsmpBody, hv, Block.checkFlen_of_fits h h5])

/-! FRAME (rule R165). -/

theorem exec_frame_of_long (he : s.block.err = false) (h : 5 < s.block.flen.toNat) :
    exec .frame s = .next { s with block := { s.block with status := 0x06A#12 } } :=
  have hb : frameBody s.block = .error ⟨.invalidArg, 0x06#8⟩ := by rw [frameBody, Block.checkFlen_of_long h]
  exec_instr_of_error (c := .frame) nofun he hb

theorem exec_frame_of_short (he : s.block.err = false) (h : s.block.flen.toNat < 3) :
    exec .frame s = .next { s with block := { s.block with status := 0x06B#12 } } :=
  have hb : frameBody s.block = .error ⟨.frameShort, 0x06#8⟩ := by
    rw [frameBody, Block.checkFlen_of_short (by omega) h]
  exec_instr_of_error (c := .frame) nofun he hb

theorem exec_frame_of_no_pair (he : s.block.err = false) (h : s.block.ScansLowerPair)
    (hm : s.block.frame3 ≠ s.block.frame2 ||| 0x80#8) :
    exec .frame s = .next { s with block := { s.block with status := 0x06C#12 } } := by
  obtain ⟨h4, h5⟩ := h.flen_bounds
  have hb : frameBody s.block = .error ⟨.frameNoMarker, 0x06#8⟩ := by
    rw [frameBody, Block.checkFlen_of_fits (by omega) h5, Block.frameConfigIndex_of_scan (by omega),
      Block.locate_of_scansLowerPair h, if_neg hm]
  exact exec_instr_of_error (c := .frame) nofun he hb

section
variable {j : Nat} {c : Byte}

theorem exec_frame_of_bad_layout (he : s.block.err = false) (h : s.block.HasConfigByte j c)
    (hbad : c.toNat / 4 % 4 = 3 ∧ j = 2) :
    exec .frame s = .next { s with block := { s.block with status := 0x06D#12 } } := by
  obtain ⟨h3, h5⟩ := h.flen_bounds
  have hb : frameBody s.block = .error ⟨.frameLayout, 0x06#8⟩ := by
    rw [frameBody, Block.checkFlen_of_fits h3 h5, h.frameConfigIndex]
    exact if_pos (by rw [h.frameAt]; exact h.lt_payload_iff.mpr hbad)
  exact exec_instr_of_error (c := .frame) nofun he hb

theorem exec_frame_of_layout (he : s.block.err = false) (h : s.block.HasConfigByte j c)
    (hok : ¬(c.toNat / 4 % 4 = 3 ∧ j = 2)) :
    exec .frame s = .next { s with block := { s.block with
      cfgbyte := c
      locidx := BitVec.ofNat 3 j
      conf := decodeConf c
      raw := s.block.assemble (deviceResolution c) } } := by
  obtain ⟨h3, h5⟩ := h.flen_bounds
  have hfits : payload (deviceResolution c) ≤ j := Nat.not_lt.mp (mt h.lt_payload_iff.mp hok)
  have hb := frameBody_of_index h3 h5 h.frameConfigIndex (by rw [h.frameAt]; exact hfits)
  rw [h.frameAt] at hb
  exact exec_instr_of_ok (c := .frame) nofun he hb

end

end

/-- Settles O30: the clauses are the lemmas about LOC, by the frame's length and pairs. -/
theorem locFindsMarkedByte : Obligations.LocFindsMarkedByte := by
  unfold Obligations.LocFindsMarkedByte
  refine ⟨rfl, ?_⟩
  rintro s _ he rfl
  refine ⟨exec_loc_of_long he, exec_loc_of_short he, fun ⟨h5, hm⟩ => exec_loc_of_upper_pair he h5 hm,
    fun ⟨hlow, hm⟩ => exec_loc_of_lower_pair he hlow hm, ?noMarker⟩
  case noMarker =>
    rintro (h3 | ⟨hlow, hm⟩)
    · exact exec_loc_of_no_marker he h3.ge (by omega) (Block.locate_of_three_bytes h3)
    · exact exec_loc_of_no_pair he hlow hm

/-- Settles O31: DSMP by the validity of CONF, the payload size of its resolution, and FLEN. -/
theorem dsmpAssemblesSample : Obligations.DsmpAssemblesSample := by
  unfold Obligations.DsmpAssemblesSample
  refine ⟨rfl, ?_⟩
  rintro s _ _ he rfl rfl
  have hpayload := payload_eq s.block.conf
  rw [← validConf_iff]
  refine ⟨exec_dsmp_of_invalid he, fun ⟨hv, hshort⟩ => ?short, fun ⟨hv, hres, h3, h5⟩ => ?bits18,
    fun ⟨hv, hres, h2, h5⟩ => ?below⟩
  case short => exact exec_dsmp_of_short he hv (by rw [hpayload]; split <;> omega)
  case bits18 =>
    rw [if_pos hres] at hpayload
    rw [exec_dsmp_of_payload he hv (hpayload.trans_le h3) h5, assemble_eq_ofNat,
      if_pos ((confResolution_bits18 _).mpr hres)]
  case below =>
    rw [if_neg hres] at hpayload
    rw [exec_dsmp_of_payload he hv (hpayload.trans_le h2) h5, assemble_eq_ofNat,
      if_neg (mt (confResolution_bits18 _).mp hres)]

/-- Settles O32: FRAME by the frame's length, and by the configuration byte and its index. -/
theorem frameDecodesWholeFrame : Obligations.FrameDecodesWholeFrame := by
  unfold Obligations.FrameDecodesWholeFrame
  refine ⟨rfl, ?_⟩
  rintro s _ he rfl
  refine ⟨exec_frame_of_long he, exec_frame_of_short he, fun ⟨hlow, hm⟩ => exec_frame_of_no_pair he hlow hm,
    fun j c h => ⟨exec_frame_of_bad_layout he h, fun hok => ?_⟩⟩
  rw [exec_frame_of_layout he h hok, decodeConf_eq_ofNat, assemble_deviceResolution]

/-- Settles O36: the pair of the two markers comes first, and the marker has the fields of the byte but for READY. -/
theorem markerTakenAsConfigByte : Obligations.MarkerTakenAsConfigByte := by
  unfold Obligations.MarkerTakenAsConfigByte
  rintro s _ he hflen rfl hf3 hf4
  have h5 : s.block.flen.toNat = 5 := congrArg BitVec.toNat hflen
  have hm : s.block.frame4 = s.block.frame3 ||| 0x80#8 := by rw [hf4, hf3, marker_marker]
  refine ⟨?loc, fun hres => ?frame⟩
  case loc => rw [exec_loc_of_upper_pair he h5 hm, hf3]
  case frame =>
    have hmarker := marker_toNat s.block.frame2
    have hconf : (s.block.frame2 ||| 0x80#8).toNat / 128 * 256 +
        ((s.block.frame2 ||| 0x80#8).toNat / 32 % 4 + 1) * 32 + (s.block.frame2 ||| 0x80#8).toNat % 32 =
        256 + (s.block.frame2.toNat / 32 % 4 + 1) * 32 + s.block.frame2.toNat % 32 := by omega
    rw [exec_frame_of_layout (j := 3) he (.inr (.inl ⟨h5, hm, rfl, hf3.symm⟩)) (by omega), decodeConf_eq_ofNat,
      assemble_deviceResolution, hconf, if_neg (by omega)]

/-- Settles O37: FRAME4 is the marker of FRAME2, so the pair (FRAME3, FRAME4) matches exactly when FRAME3 has the low bits of
FRAME2; when it does not, FRAME3 is no marker of FRAME2 either. -/
theorem noiseByteHidesConfigByte : Obligations.NoiseByteHidesConfigByte := by
  unfold Obligations.NoiseByteHidesConfigByte
  intro s he hflen hf4
  have h5 : s.block.flen.toNat = 5 := congrArg BitVec.toNat hflen
  have hpair : s.block.frame4 = s.block.frame3 ||| 0x80#8 ↔ s.block.frame3.toNat % 128 = s.block.frame2.toNat % 128 := by
    rw [hf4, eq_comm, marker_eq_marker_iff]
  refine ⟨fun hne => exec_loc_of_no_pair he (.inr ⟨h5, mt hpair.mp hne⟩) fun hlow => hne ?_,
    fun heq => exec_loc_of_upper_pair he h5 (hpair.mpr heq)⟩
  rw [hlow, marker_toNat]
  omega

end Machine
end Sys2Proof
end

section
/-! The proof that FRAME leaves what LOC, DCFG and DSMP leave one after the other (rule R171): the scan of LOC finds the same
byte, its CONF is always a configuration, and the payload that fits below the byte fits in the frame. -/

namespace Sys2Proof
namespace Machine

section
variable {s : State} {b' : Block} {j : Nat}

/-- What FRAME's success says of the frame (rule R165). -/
theorem frameBody_ok_index {b : Block} (h : frameBody b = .ok b') :
    ∃ j, 3 ≤ b.flen.toNat ∧ b.flen.toNat ≤ 5 ∧ b.frameConfigIndex = some j ∧
      payload (deviceResolution (b.frameAt j)) ≤ j ∧ b' = { b with
        cfgbyte := b.frameAt j, locidx := BitVec.ofNat 3 j, conf := decodeConf (b.frameAt j),
        raw := b.assemble (deviceResolution (b.frameAt j)) } := by
  rcases frameBody_cases b with
    ⟨_, e⟩ | ⟨_, e⟩ | ⟨_, _, _, e⟩ | ⟨_, _, _, _, _, e⟩ | ⟨j, h3, h5, hj, hp, e⟩ <;> cases e.symm.trans h
  exact ⟨j, h3, h5, hj, hp, rfl⟩

/-- The first stage of rule R171: three bytes hold the configuration byte at index 2, and LOC finds it in any other frame. -/
theorem frameConfigIndex_refines_loc {t : State} (he : s.block.err = false) (h3 : 3 ≤ s.block.flen.toNat)
    (h5 : s.block.flen.toNat ≤ 5) (hj : s.block.frameConfigIndex = some j)
    (ht : t = { s with block := { s.block with cfgbyte := s.block.frameAt j, locidx := BitVec.ofNat 3 j } }) :
    if s.block.flen = 3#3 then
      t = { s with block := { s.block with cfgbyte := s.block.frame2, locidx := 2#3 } }
    else exec .loc s = .next t := by
  subst ht
  split
  case isTrue hflen =>
    cases hj.symm.trans (if_pos (congrArg BitVec.toNat hflen))
    rfl
  case isFalse hflen =>
    rw [Block.frameConfigIndex_of_scan fun h => hflen (BitVec.eq_of_toNat_eq h)] at hj
    exact exec_loc_of_index he h3 h5 hj

end

/-- Settles O33: each stage's checks are among FRAME's, and no stage reads what an earlier one wrote but CFGBYTE and CONF. -/
theorem frameRefinesLocDcfgDsmp : Obligations.FrameRefinesLocDcfgDsmp := by
  unfold Obligations.FrameRefinesLocDcfgDsmp
  intro s t he h
  cases hb : frameBody s.block with
  | error r =>
    cases (exec_instr_of_error (c := .frame) nofun he hb).symm.trans h
    exact ⟨fun ht => absurd (statusErr_faultStatus r) (ne_true_of_eq_false ht), fun _ => rfl⟩
  | ok b' =>
    cases (exec_instr_of_ok (c := .frame) nofun he hb).symm.trans h
    obtain ⟨j, h3, h5, hj, hp, rfl⟩ := frameBody_ok_index hb
    refine ⟨fun _ => ?stages, fun ht => absurd ht (ne_true_of_eq_false he)⟩
    case stages =>
      exact ⟨_, _, frameConfigIndex_refines_loc he h3 h5 hj rfl, exec_dcfg_of_not_err he,
        exec_dsmp_of_payload he (decodeConf_valid _)
          (hp.trans (Block.frameConfigIndex_lt hj).le) h5⟩

end Machine
end Sys2Proof
end

section
/-! The proof that FRAME ignores the old CONF, PCONF and RAW (rule R165): its checks and its sample come from the frame buffer
and FLEN alone, so its body commutes with replacing these registers, but for PCONF, which it keeps. -/

namespace Sys2Proof
namespace Machine

/-- The block with any other CONF, PCONF and RAW. -/
def Block.withConfiguration (b : Block) (conf : BitVec 9) (pconf : BitVec 14) (raw : BitVec 18) : Block :=
  { b with conf := conf, pconf := pconf, raw := raw }

section
variable (b : Block) (conf : BitVec 9) (pconf : BitVec 14) (raw : BitVec 18)

@[simp] theorem Block.withConfiguration_checkFlen (min : Nat) (op : Byte) :
    (b.withConfiguration conf pconf raw).checkFlen min op = b.checkFlen min op := rfl

@[simp] theorem Block.withConfiguration_frameAt (i : Nat) :
    (b.withConfiguration conf pconf raw).frameAt i = b.frameAt i := rfl

@[simp] theorem Block.withConfiguration_assemble (res : Resolution) :
    (b.withConfiguration conf pconf raw).assemble res = b.assemble res := rfl

/-- The scan reads the frame buffer alone (rule R162). -/
theorem Block.withConfiguration_scanFrom (i : Nat) :
    (b.withConfiguration conf pconf raw).scanFrom i = b.scanFrom i := by
  induction i with
  | zero => rfl
  | succ i ih => simp only [Block.scanFrom, Block.withConfiguration_frameAt, ih]

@[simp] theorem Block.withConfiguration_frameConfigIndex :
    (b.withConfiguration conf pconf raw).frameConfigIndex = b.frameConfigIndex := by
  have hlocate : (b.withConfiguration conf pconf raw).locate = b.locate :=
    Block.withConfiguration_scanFrom b conf pconf raw _
  rw [Block.frameConfigIndex, hlocate]
  rfl

/-- FRAME has the same results, or the same fault, whatever CONF, PCONF and RAW held (rule R165). -/
theorem frameBody_withConfiguration :
    frameBody (b.withConfiguration conf pconf raw) = (frameBody b).map ({ · with pconf := pconf }) := by
  simp only [frameBody, Block.withConfiguration_checkFlen, Block.withConfiguration_frameConfigIndex,
    Block.withConfiguration_frameAt, Block.withConfiguration_assemble]
  cases b.checkFlen 3 0x06#8 with
  | some r => rfl
  | none =>
    cases b.frameConfigIndex with
    | none => rfl
    | some j =>
      dsimp only
      split
      case isTrue hp => exact if_pos hp
      case isFalse hp => exact if_neg hp

end

/-- Settles O34: a fault is the same fault, and results differ in PCONF alone. -/
theorem frameIgnoresOldConfiguration : Obligations.FrameIgnoresOldConfiguration := by
  unfold Obligations.FrameIgnoresOldConfiguration
  intro s t conf pconf raw he h
  have hother := frameBody_withConfiguration s.block conf pconf raw
  cases hb : frameBody s.block with
  | error r =>
    rw [hb] at hother
    cases (exec_instr_of_error (c := .frame) nofun he hb).symm.trans h
    exact ⟨_, exec_instr_of_error (c := .frame) nofun he hother, rfl,
      fun ht => absurd (statusErr_faultStatus r) (ne_true_of_eq_false ht)⟩
  | ok b' =>
    rw [hb] at hother
    cases (exec_instr_of_ok (c := .frame) nofun he hb).symm.trans h
    exact ⟨_, exec_instr_of_ok (c := .frame) nofun he hother, rfl, fun _ => rfl⟩

end Machine
end Sys2Proof
end

section
/-! The proofs about the conversion (rules R190 to R200): `signedOf` is the integer that a bit vector of the nominal width
stands for; TOPHYS leaves the count and the denominator without loss, and the exact value is their quotient. -/

namespace Sys2Proof
namespace Machine

/-! What CONF selects, as arithmetic on its number (rules R29, R92, R190 to R192). -/

section
variable (c : BitVec 9)

theorem confResolution_eq :
    confResolution c =
      if c.toNat / 4 % 4 = 0 then .bits12 else if c.toNat / 4 % 4 = 1 then .bits14
      else if c.toNat / 4 % 4 = 2 then .bits16 else .bits18 := by
  rw [confResolution, resolutionOfCode_eq, confRes_toNat]

theorem confGainOf_eq :
    confGainOf c =
      if c.toNat % 4 = 0 then .x1 else if c.toNat % 4 = 1 then .x2 else if c.toNat % 4 = 2 then .x4 else .x8 := by
  rw [confGainOf, gainOfCode_eq, confGain_toNat]

theorem nominalWidth_confResolution : nominalWidth (confResolution c) = if c.toNat / 4 % 4 = 3 then 18 else 16 := by
  simp only [nominalWidth_eq, confResolution_bits18]

theorem lsbDen_confResolution :
    lsbDen (confResolution c) =
      if c.toNat / 4 % 4 = 0 then 1000 else if c.toNat / 4 % 4 = 1 then 4000
      else if c.toNat / 4 % 4 = 2 then 16000 else 64000 := by
  rw [confResolution_eq]
  split_ifs <;> rfl

theorem gainMul_confGainOf :
    gainMul (confGainOf c) =
      if c.toNat % 4 = 0 then 1 else if c.toNat % 4 = 1 then 2 else if c.toNat % 4 = 2 then 4 else 8 := by
  rw [confGainOf_eq]
  split_ifs <;> rfl

/-- The most counts over LSB_DEN, by resolution (rule R199). -/
theorem largestMagnitude_confResolution :
    (2 : Rat) ^ (nominalWidth (confResolution c) - 1) / lsbDen (confResolution c) =
      if c.toNat / 4 % 4 = 0 then 32768 / 1000 else if c.toNat / 4 % 4 = 1 then 8192 / 1000 else 2048 / 1000 := by
  rw [confResolution_eq]
  split_ifs <;> norm_num [nominalWidth, lsbDen]

end

/-- The low four bits of CONF select the resolution and the gain (rule R29). -/
theorem confResolution_confGainOf_congr {c d : BitVec 9} (h : c.toNat % 16 = d.toNat % 16) :
    confResolution c = confResolution d ∧ confGainOf c = confGainOf d := by
  have hres : c.toNat / 4 % 4 = d.toNat / 4 % 4 := by omega
  have hgain : c.toNat % 4 = d.toNat % 4 := by omega
  rw [confResolution_eq, confResolution_eq, confGainOf_eq, confGainOf_eq, hres, hgain]
  exact ⟨rfl, rfl⟩

/-! The count (rules R193, R194). -/

section
variable {raw : Nat} {res : Resolution}

/-- Flipping the bits and adding 1 is subtracting 2^w (rule R194). -/
theorem signedOf_eq_testBit (h : raw < 2 ^ nominalWidth res) :
    signedOf raw res =
      if raw.testBit (nominalWidth res - 1) then (raw : Int) - 2 ^ nominalWidth res else (raw : Int) := by
  have hflip : ((2 ^ nominalWidth res - 1 - raw : Nat) : Int) = 2 ^ nominalWidth res - 1 - raw := by
    rw [Nat.cast_sub (Nat.le_sub_one_of_lt h), Nat.cast_sub Nat.one_le_two_pow]
    norm_cast
  rw [signedOf, xor_nominalMask h, nominalMask_eq, hflip]
  split
  · omega
  · rfl

theorem signedOf_eq_sub (h : raw < 2 ^ nominalWidth res) :
    signedOf raw res =
      if 2 ^ (nominalWidth res - 1) ≤ raw then (raw : Int) - 2 ^ nominalWidth res else (raw : Int) := by
  simp only [signedOf_eq_testBit h, testBit_top h, decide_eq_true_eq]

/-- The count is the integer that the bit vector of the raw value stands for (rule R194). -/
theorem signedOf_eq_toInt (h : raw < 2 ^ nominalWidth res) :
    signedOf raw res = (BitVec.ofNat (nominalWidth res) raw).toInt := by
  rw [signedOf_eq_testBit h, BitVec.toInt_eq_msb_cond, BitVec.msb_eq_getLsbD_last, ← BitVec.testBit_toNat,
    BitVec.toNat_ofNat, Nat.mod_eq_of_lt h]
  norm_cast

theorem signedOf_zero (res : Resolution) : signedOf 0 res = 0 := by
  cases res <;> rfl

/-- The raw value with the top bit alone is the most negative count (rule R199). -/
theorem signedOf_top_bit (res : Resolution) :
    signedOf (2 ^ (nominalWidth res - 1)) res = -2 ^ (nominalWidth res - 1) := by
  cases res <;> decide

/-- Every integer in the signed range is the count of exactly one raw value (rule R194). -/
theorem existsUnique_signedOf {z : Int} (hlow : -2 ^ (nominalWidth res - 1) ≤ z)
    (hhigh : z < 2 ^ (nominalWidth res - 1)) :
    ∃! raw : Nat, raw < 2 ^ nominalWidth res ∧ signedOf raw res = z := by
  have hpos : 0 < nominalWidth res := by cases res <;> decide
  have hz : (BitVec.ofInt (nominalWidth res) z).toInt = z := BitVec.toInt_ofInt_eq_self hpos hlow hhigh
  refine ⟨(BitVec.ofInt (nominalWidth res) z).toNat, ⟨BitVec.isLt _, ?_⟩, ?_⟩
  · rw [signedOf_eq_toInt (BitVec.isLt _), BitVec.ofNat_toNat, BitVec.setWidth_eq, hz]
  · rintro raw ⟨hraw, hcount⟩
    have hvec : BitVec.ofNat (nominalWidth res) raw = BitVec.ofInt (nominalWidth res) z :=
      BitVec.eq_of_toInt_eq (by rw [← signedOf_eq_toInt hraw, hcount, hz])
    rw [← hvec, BitVec.toNat_ofNat, Nat.mod_eq_of_lt hraw]

/-- The magnitude of a count (rule R199). -/
theorem abs_signedOf_le (h : raw < 2 ^ nominalWidth res) : |signedOf raw res| ≤ 2 ^ (nominalWidth res - 1) :=
  abs_le.mpr ⟨(signedOf_range h).1, (signedOf_range h).2.le⟩

end

/-! The exact value (rules R195, R200). -/

theorem exactValue_zero (den : Nat) : exactValue 0 den = 0 := by
  simp [exactValue]

theorem exactValue_strictMono {den : Nat} (hden : 0 < den) : StrictMono (exactValue · den) := fun _ _ h =>
  div_lt_div_of_pos_right (Int.cast_lt.mpr h) (Nat.cast_pos.mpr hden)

theorem exactValue_succ_sub (count : Int) (den : Nat) :
    exactValue (count + 1) den - exactValue count den = 1 / (den : Rat) := by
  rw [exactValue, exactValue, ← sub_div, Int.cast_add, Int.cast_one, add_sub_cancel_left]

/-! TOPHYS while ERR = 0 (rule R195). -/

section
variable {s t : State}

theorem exec_tophys_of_invalid (he : s.block.err = false)
    (h : ¬validConf s.block.conf = true ∨ 2 ^ nominalWidth (confResolution s.block.conf) ≤ s.block.raw.toNat) :
    exec .tophys s = .next { s with block := { s.block with status := 0x05A#12 } } := by
  rcases tophysBody_cases s.block with ⟨_, hb⟩ | ⟨hv, hraw, _⟩
  · exact exec_instr_of_error (c := .tophys) nofun he hb
  · exact absurd h (not_or.mpr ⟨not_not.mpr hv, Nat.not_le.mpr hraw⟩)

theorem exec_tophys_of_valid (he : s.block.err = false) (hv : validConf s.block.conf = true)
    (hraw : s.block.raw.toNat < 2 ^ nominalWidth (confResolution s.block.conf)) :
    exec .tophys s = .next { s with block := { s.block with
      signed := BitVec.ofInt 18 (signedOf s.block.raw.toNat (confResolution s.block.conf))
      physDen := BitVec.ofNat 19 (physDenominator (confResolution s.block.conf) (confGainOf s.block.conf))
      physF := Config.physRound (exactValue (signedOf s.block.raw.toNat (confResolution s.block.conf))
        (physDenominator (confResolution s.block.conf) (confGainOf s.block.conf))) } } := by
  rcases tophysBody_cases s.block with ⟨hv' | hraw', _⟩ | ⟨_, _, hb⟩
  · exact absurd hv (ne_true_of_eq_false hv')
  · exact absurd hraw (Nat.not_lt.mpr hraw')
  · exact exec_instr_of_ok (c := .tophys) nofun he hb

/-- A TOPHYS that does not fault had a sample of the nominal width, and SIGNED and PHYS_DEN hold its count and its
denominator without loss (rules R193, R197). -/
theorem exec_tophys_signed_physDen (he : s.block.err = false) (h : exec .tophys s = .next t)
    (ht : t.block.err = false) :
    s.block.raw.toNat < 2 ^ nominalWidth (confResolution s.block.conf) ∧
      t.block.signed.toInt = signedOf s.block.raw.toNat (confResolution s.block.conf) ∧
      t.block.physDen.toNat = physDenominator (confResolution s.block.conf) (confGainOf s.block.conf) := by
  cases h
  obtain ⟨b', hb, e⟩ := State.runCommand_succeeds he ht
  obtain ⟨hraw, rfl⟩ := tophysBody_ok hb
  rw [e]
  exact ⟨hraw, toInt_ofInt_signedOf hraw, toNat_ofNat_physDenominator _ _⟩

theorem exec_tophys_physDen_pos (he : s.block.err = false) (h : exec .tophys s = .next t) (ht : t.block.err = false) :
    0 < t.block.physDen.toNat := by
  obtain ⟨-, -, hden⟩ := exec_tophys_signed_physDen he h ht
  rw [hden]
  exact Nat.lt_of_lt_of_le (by decide) (physDenominator_bounds _ _).1

/-- After it the exact value is defined (rule R35). -/
theorem exec_tophys_physValue (he : s.block.err = false) (h : exec .tophys s = .next t) (ht : t.block.err = false) :
    t.block.physValue = some (exactValue t.block.signed.toInt t.block.physDen.toNat) :=
  if_neg fun h0 => (exec_tophys_physDen_pos he h ht).ne' (congrArg BitVec.toNat h0)

/-- TOPHYS has the same results, or the same fault, for every valid CONF of one resolution and gain (rule R195). -/
theorem tophysBody_withConf {b : Block} {conf : BitVec 9} (hv : validConf b.conf = true) (hv' : validConf conf = true)
    (h : b.conf.toNat % 16 = conf.toNat % 16) :
    tophysBody { b with conf := conf } = (tophysBody b).map ({ · with conf := conf }) := by
  obtain ⟨hres, hgain⟩ := confResolution_confGainOf_congr h
  simp only [tophysBody, hv, hv', hres, hgain]
  split <;> [skip; split] <;> rfl

end

/-- Settles O38: TOPHYS by the validity of CONF and the width of RAW. -/
theorem tophysConvertsSample : Obligations.TophysConvertsSample := by
  unfold Obligations.TophysConvertsSample
  refine ⟨rfl, ?_⟩
  rintro s _ _ w lsb mul count he rfl rfl hw hlsb hmul hcount
  rw [← nominalWidth_confResolution] at hw
  rw [← lsbDen_confResolution] at hlsb
  rw [← gainMul_confGainOf] at hmul
  subst hw hlsb hmul
  rw [← validConf_iff]
  refine ⟨exec_tophys_of_invalid he, fun ⟨hv, hraw⟩ => ?_⟩
  rw [exec_tophys_of_valid he hv hraw, hcount, ← signedOf_eq_sub hraw]
  rfl

/-- Settles O39: the count is the integer of a bit vector, and bit vectors and integers of the signed range correspond. -/
theorem signedOfIsTwosComplement : Obligations.SignedOfIsTwosComplement := by
  unfold Obligations.SignedOfIsTwosComplement
  intro res w hw
  rw [← nominalWidth_eq] at hw
  subst hw
  exact ⟨fun _ => signedOf_eq_testBit, fun _ => existsUnique_signedOf⟩

/-- Settles O40. -/
theorem denominatorTable : Obligations.DenominatorTable := by
  unfold Obligations.DenominatorTable
  refine ⟨rfl, fun s t he h ht => ?_⟩
  obtain ⟨-, -, hden⟩ := exec_tophys_signed_physDen he h ht
  exact hden

/-- Settles O42: 0 fits every width, and its count is 0. -/
theorem zeroSampleGivesZero : Obligations.ZeroSampleGivesZero := by
  unfold Obligations.ZeroSampleGivesZero
  intro s he hv hraw
  have h0 : s.block.raw.toNat = 0 := congrArg BitVec.toNat hraw
  have hexec := exec_tophys_of_valid he hv (by rw [h0]; exact Nat.two_pow_pos _)
  rw [h0, signedOf_zero, exactValue_zero, physRound_zero] at hexec
  refine ⟨_, hexec, he, rfl, ?_, rfl⟩
  rw [exec_tophys_physValue he hexec he]
  exact congrArg some (exactValue_zero _)

/-- Settles O43: a count is at most 2^(w-1) in magnitude, and the bound is that many counts over the denominator. -/
theorem exactValueRange : Obligations.ExactValueRange := by
  unfold Obligations.ExactValueRange
  rintro s t q bound _ w he h ht hq rfl hw hbound
  obtain ⟨hraw, hsigned, hden⟩ := exec_tophys_signed_physDen he h ht
  rw [exec_tophys_physValue he h ht, hsigned, hden, Option.some_inj] at hq
  rw [← nominalWidth_confResolution] at hw
  subst hw hq
  have hbound' : bound = 2 ^ (nominalWidth (confResolution s.block.conf) - 1) /
      (physDenominator (confResolution s.block.conf) (confGainOf s.block.conf) : Rat) := by
    have hmul := congrArg (Nat.cast (R := Rat)) (gainMul_confGainOf s.block.conf)
    push_cast at hmul
    rw [hbound, ← largestMagnitude_confResolution, ← hmul, div_div, physDenominator, Nat.cast_mul]
  rw [hbound', exactValue]
  constructor
  · rw [abs_div, Nat.abs_cast]
    exact div_le_div_of_nonneg_right (by exact_mod_cast abs_signedOf_le hraw) (Nat.cast_nonneg _)
  · intro htop
    rw [htop, signedOf_top_bit, ← neg_div]
    norm_cast

/-- Settles O44: the two exact values have one denominator. -/
theorem exactValueIsMonotonic : Obligations.ExactValueIsMonotonic := by
  unfold Obligations.ExactValueIsMonotonic
  intro s1 s2 t1 t2 q1 q2 he1 he2 hconf h1 h2 ht1 ht2 hq1 hq2
  obtain ⟨-, -, hden1⟩ := exec_tophys_signed_physDen he1 h1 ht1
  obtain ⟨-, -, hden2⟩ := exec_tophys_signed_physDen he2 h2 ht2
  obtain ⟨hres, hgain⟩ := confResolution_confGainOf_congr hconf
  have hden : t2.block.physDen.toNat = t1.block.physDen.toNat := by rw [hden1, hden2, hres, hgain]
  cases (exec_tophys_physValue he1 h1 ht1).symm.trans hq1
  cases (exec_tophys_physValue he2 h2 ht2).symm.trans hq2
  rw [hden]
  refine ⟨fun hlt => exactValue_strictMono (exec_tophys_physDen_pos he1 h1 ht1) hlt, fun hsucc => ?_⟩
  rw [hsucc]
  exact exactValue_succ_sub _ _

/-- Settles O45: a fault is the same fault, and results differ in CONF alone. -/
theorem tophysIgnoresChannelModeReady : Obligations.TophysIgnoresChannelModeReady := by
  unfold Obligations.TophysIgnoresChannelModeReady
  intro s t conf' he h hv hv' hconf
  have hother := tophysBody_withConf hv hv' hconf
  cases hb : tophysBody s.block with
  | error r =>
    rw [hb] at hother
    cases (exec_instr_of_error (c := .tophys) nofun he hb).symm.trans h
    exact exec_instr_of_error (c := .tophys) nofun he hother
  | ok b' =>
    rw [hb] at hother
    cases (exec_instr_of_ok (c := .tophys) nofun he hb).symm.trans h
    exact exec_instr_of_ok (c := .tophys) nofun he hother

end Machine
end Sys2Proof
end

section
/-! The proofs about the control commands (rules R210, R211): NOP in the faulted and in the healthy block, and SRST by the
table of reset values. -/

namespace Sys2Proof
namespace Machine

/-- Settles O12: the faulted block ignores NOP, and the healthy block runs it with its own registers as results. -/
theorem nopChangesNothing : Obligations.NopChangesNothing := by
  unfold Obligations.NopChangesNothing
  refine ⟨rfl, fun s => ?_⟩
  cases he : s.block.err with
  | true => exact exec_instr_of_err (c := .nop) nofun he
  | false => exact exec_instr_of_ok (c := .nop) nofun he rfl

/-- Settles O13: the reset values are those of rule R40 (O11), where PHYS_F is the rounding of 0. -/
theorem srstResetsEveryRegister : Obligations.SrstResetsEveryRegister := by
  unfold Obligations.SrstResetsEveryRegister
  obtain ⟨_, _, hsrst⟩ := resetRegisterValues _ rfl
  rw [physRound_zero] at hsrst
  exact ⟨rfl, hsrst⟩

end Machine
end Sys2Proof
end

section
/-! The proofs about faults (rules R221 to R232): what taking a fault writes, that it leaves every register but STATUS, and
that the faulted block changes at the three reset inputs alone. -/

namespace Sys2Proof
namespace Machine

section
variable {s t : State}

/-! Inputs that write a word to CMD, in either format (rule R125). -/

theorem step_of_cmd_word {word : Byte} {rest : List HostInput}
    (h : s.host.pending = .access (.command word) :: rest ∨
      s.host.pending = .access (.transaction 0x100#9 (some word.toNat)) :: rest) :
    step s = execWr 0x00#8 word.toNat { s with host := { s.host with pending := rest } } := by
  rcases h with h | h <;> rw [step_of_cons h]
  · exact runAccess_command_eq_execWr
  · rfl

/-- Each of the three reset inputs resets the block, faulted or not (rules R211, R250). -/
theorem step_of_reset_input {input : HostInput} {rest : List HostInput} (hp : s.host.pending = input :: rest)
    (hin : input = .rst ∨ input = .access (.command 0x0F#8) ∨
      input = .access (.transaction 0x100#9 (some 0x0F))) :
    step s = .next (State.resetBlock { s with host := { s.host with pending := rest } }) := by
  rcases hin with rfl | hcmd
  · exact step_of_cons hp
  · have hword := hcmd.imp (fun h => h ▸ hp) (fun h => h ▸ hp)
    exact (step_of_cmd_word (word := 0x0F#8) hword).trans execWr_cmd_srst

/-! The faulted block (rules R126, R230, R231). -/

/-- While ERR = 1 no instruction changes the block but SRST, in its two forms. -/
theorem exec_block_of_err {i : Instr} (he : s.block.err = true) (hsrst : i ≠ .srst) (hwr : i ≠ .wr 0x00#8 0x0F)
    (h : exec i s = .next t) : t.block = s.block := by
  rcases instr_command_or_access i with ⟨c, rfl⟩ | ⟨a, v, rfl⟩ | ⟨a, rfl⟩
  · have hc : c ≠ .srst := by
      rintro rfl
      exact hsrst rfl
    cases (exec_instr_of_err hc he).symm.trans h
    rfl
  · have hav : ¬(a = 0x00#8 ∧ v = 0x0F) := by
      rintro ⟨rfl, rfl⟩
      exact hwr rfl
    cases (execWr_of_err he hav).symm.trans h
    rfl
  · rcases execRd_cases a s with ⟨_, _, _, e⟩ | ⟨_, e⟩ <;> cases e.symm.trans h
    · rfl
    · rw [State.badRead_of_err he, State.receive_block]

/-- A step of the faulted block on no reset input leaves every register. -/
theorem step_block_of_err (he : s.block.err = true)
    (hin : ∀ (input : HostInput) (rest : List HostInput), s.host.pending = input :: rest →
      input ≠ .rst ∧ input ≠ .access (.command 0x0F#8) ∧ input ≠ .access (.transaction 0x100#9 (some 0x0F)))
    (h : step s = .next t) : t.block = s.block := by
  rcases step_cases h with ⟨_, rfl⟩ | ⟨input, rest, hp, hcases⟩
  · rfl
  obtain ⟨hrst, hcommand, hwrite⟩ := hin input rest hp
  rcases hcases with ⟨hr, _⟩ | ⟨word, i, rfl, hd, hexec⟩ | ⟨word, _, _, rfl⟩
  · exact absurd hr hrst
  · have hword : encode i = word := encode_of_decode hd
    have hsrst : i ≠ .srst := by
      rintro rfl
      exact hcommand (congrArg HostInput.access hword.symm)
    have hwr : i ≠ .wr 0x00#8 0x0F := by
      rintro rfl
      exact hwrite (congrArg HostInput.access hword.symm)
    exact exec_block_of_err (s := { s with host := { s.host with pending := rest } }) he hsrst hwr hexec
  · rw [State.illegalCommand, State.runCommand_of_err]
    exact he

end

/-! What taking a fault writes (rules R24, R221, R226). -/

/-- The one kind of step that takes ERR from 0 to 1 records a fault and writes nothing else (rule R232). -/
theorem BlockStep.fault_of_err {b b' : Block} (h : BlockStep b b') (he : b.err = false) (he' : b'.err = true) :
    ∃ r : FaultReport, r.legal = true ∧ b' = { b with status := faultStatus r } := by
  have hkept (hk : b'.err = b.err) : False := Bool.false_ne_true (he.symm.trans (hk.symm.trans he'))
  cases h with
  | keep => exact (hkept rfl).elim
  | reset => cases he'
  | fault r _ hr => exact ⟨r, hr, rfl⟩
  | store reg v _ => exact (hkept (b.writeReg_err v reg)).elim
  | command c b' _ hc hr => exact (hkept (congrArg statusErr (commandBody_ok_status hc hr))).elim

/-- Settles O51. -/
theorem firstFaultStaysUntilReset : Obligations.FirstFaultStaysUntilReset := by
  unfold Obligations.FirstFaultStaysUntilReset
  exact fun s he => ⟨fun _ _ => step_of_reset_input, fun _ => step_block_of_err he⟩

/-- Settles O21: in both formats the step is a write of the word to CMD, and the word is no command. -/
theorem illegalCommandWordFaults : Obligations.IllegalCommandWordFaults := by
  unfold Obligations.IllegalCommandWordFaults
  intro s word rest hp hword
  rw [step_of_cmd_word hp]
  have hnone : decodeCommand word = none := (decodeCommand_eq_none_iff word).mpr (by omega)
  exact ⟨fun he => execWr_cmd_illegal hnone he, fun he => execWr_of_err he (by omega)⟩

/-- Settles O49: among the cases of `BlockStep`, only a recorded fault sets ERR. -/
theorem faultsArePrecise : Obligations.FaultsArePrecise := by
  unfold Obligations.FaultsArePrecise
  intro i s t he h ht
  obtain ⟨r, hr, hblock⟩ := (exec_blockStep h).fault_of_err he ht
  exact ⟨r, hr, faultStatus_eq r ▸ hblock⟩

/-- Settles O10. -/
theorem secondHostIsRefused : Obligations.SecondHostIsRefused := by
  unfold Obligations.SecondHostIsRefused
  exact fun _ _ _ h => step_of_cons h

/-- Settles O46: the code is the one of rule R221. -/
theorem faultEntryWritesStatus : Obligations.FaultEntryWritesStatus := by
  unfold Obligations.FaultEntryWritesStatus
  intro b r code hcode
  have hcause : code = r.cause.code.toNat := by
    rw [hcode]
    cases r.cause <;> rfl
  rw [hcause, ← faultStatus_eq]
  exact ⟨b.raiseFault_of_not_err r, b.raiseFault_of_err r⟩

end Machine
end Sys2Proof
end

section
/-! The proofs about reset (rules R250, R254): its two inputs have one effect, and it leaves CONF with channel 0, which is no
configuration, and FLEN with 0, which is no frame. -/

namespace Sys2Proof
namespace Machine

/-- Channel 0 is no channel, so the reset value of CONF is no configuration (rules R40, R254). -/
theorem State.reset_conf_invalid : ¬validConf State.reset.block.conf = true := by decide

/-- The reset value of FLEN is shorter than any frame (rules R40, R254). -/
theorem State.reset_flen_short : State.reset.block.flen.toNat < 3 := by decide

/-- Settles O9: both are among the inputs that reset the block in every state. -/
theorem rstAndSrstResetAlike : Obligations.RstAndSrstResetAlike := by
  unfold Obligations.RstAndSrstResetAlike
  exact fun _ _ => ⟨step_of_reset_input rfl (.inl rfl), step_of_reset_input rfl (.inr (.inl rfl)), Block.reset_err⟩

/-- Settles O14: the commands that check CONF first find no configuration, and LOC and FRAME find no frame. -/
theorem commandsFaultAfterReset : Obligations.CommandsFaultAfterReset := by
  unfold Obligations.CommandsFaultAfterReset
  have he : State.reset.block.err = false := Block.reset_err
  have hconf := State.reset_conf_invalid
  have hflen := State.reset_flen_short
  exact ⟨_, _, _, _, _, _,
    exec_enc_of_invalid he hconf, rfl,
    exec_loc_of_short he hflen, rfl,
    exec_dsmp_of_invalid he (.inl hconf), rfl,
    exec_tophys_of_invalid he (.inl hconf), rfl,
    exec_frame_of_short he hflen, rfl,
    exec_merge_of_invalid he (.inl hconf), rfl⟩

end Machine
end Sys2Proof
end
